-- ==== Sys2Proof/Word.lean ====
section
/-! DEFINITION. The bit-vector types of the machine, named as the spec names them (00_scope.md R8, R10, R14). -/

namespace Sys2Proof

/-- One byte: a memory byte (R50), a `V` register (R22), a timer (R32, R33), the immediate `kk` (R81). -/
abbrev Byte := BitVec 8

/-- Sixteen bits: an instruction word (R80), `I` (R25), `PC` (R27), `SP` and a stack entry (R29, R30). -/
abbrev Word := BitVec 16

/-- A 4-bit field: the operands `x`, `y`, `n` (R81). -/
abbrev Nibble := BitVec 4

/-- A 4-bit register index, `V[0x0]`..`V[0xF]` (R22). -/
abbrev RegIdx := BitVec 4

/-- A 12-bit address operand `nnn` (R81). -/
abbrev Addr := BitVec 12

/-- `VF` is `V[15]` (R11, R23). -/
abbrev VF : RegIdx := 0xF#4

/-- The low nibble of a byte, `v & 0x0F` (R173, R200). -/
abbrev lowNibble (v : Byte) : Nibble := v.extractLsb' 0 4

end Sys2Proof
end

