-- ==== Sys2Proof/Config.lean ====
section
/-! DEFINITION. What an implementation fixes (the named parameters of 00_scope.md R9) and the free value of
the machine. The parameters are a value of type `Config`, so that the model covers every implementation the
spec admits; this spec's defaults stand in Machine/Defaults.lean. -/

namespace Sys2Proof

/-- The 80 font bytes written at construction, glyph `d` at offset `5 * d` (R8, R173). -/
abbrev Font := Vector Byte 80

/-- `SHIFT_SOURCE` of R9: the operand `8xy6` and `8xyE` shift (R149, R150, D4). -/
inductive ShiftSource where
  | vx
  | vy
  deriving DecidableEq, Repr

/-- `PC_POLICY` of R9: whether a fetch at an odd `PC` or at a `PC` below `0x200` faults (R102, D18). -/
inductive PcPolicy where
  | strict
  | permissive
  deriving DecidableEq, Repr

/-- The named parameters of the model (R9). -/
structure Config where
  /-- `PROGRAM_CEILING`, exclusive upper bound of the program image (R262, D24). -/
  programCeiling : Nat
  /-- `FONT` (R38, D11). -/
  font : Font
  /-- `SHIFT_SOURCE` (D4). -/
  shiftSource : ShiftSource
  /-- `LS_ADVANCES_I`: whether `Fx55` and `Fx65` leave `I` advanced (R175, R176, D8). -/
  lsAdvancesI : Bool
  /-- `PC_POLICY` (D18). -/
  pcPolicy : PcPolicy
  deriving DecidableEq, Repr

/-- The random byte of the `k`-th draw (R37, R152, D16): "an unconstrained draw". It has no body, so
nothing can be proved about its value: a claim about `Cxkk` holds for every byte (log 6). -/
opaque Config.randomByte : Nat → Byte

end Sys2Proof
end

