-- ==== Sys2Proof/Syntax.lean ====
section
/-! DEFINITION. The instructions: one constructor per row of spec/opcode_table.json, in the table's order.
Every operand is an unsigned bit field of the word (30_encoding.md R82), carried at its own width. -/

namespace Sys2Proof

/-- The 34 instructions (R3, R83, R84). `x` and `y` name registers, `kk` is the immediate byte, `nnn` the
12-bit address, `n` the sprite height. -/
inductive Instr where
  /-- `00E0` CLS (R190) -/
  | cls
  /-- `00EE` RET (R120) -/
  | ret
  /-- `1nnn` JP addr (R121) -/
  | jp (nnn : Addr)
  /-- `2nnn` CALL addr (R122) -/
  | call (nnn : Addr)
  /-- `3xkk` SE Vx, byte (R123) -/
  | seImm (x : RegIdx) (kk : Byte)
  /-- `4xkk` SNE Vx, byte (R124) -/
  | sneImm (x : RegIdx) (kk : Byte)
  /-- `5xy0` SE Vx, Vy (R125) -/
  | seReg (x y : RegIdx)
  /-- `6xkk` LD Vx, byte (R140) -/
  | ldImm (x : RegIdx) (kk : Byte)
  /-- `7xkk` ADD Vx, byte (R141) -/
  | addImm (x : RegIdx) (kk : Byte)
  /-- `8xy0` LD Vx, Vy (R143) -/
  | ldReg (x y : RegIdx)
  /-- `8xy1` OR Vx, Vy (R144) -/
  | or (x y : RegIdx)
  /-- `8xy2` AND Vx, Vy (R145) -/
  | and (x y : RegIdx)
  /-- `8xy3` XOR Vx, Vy (R146) -/
  | xor (x y : RegIdx)
  /-- `8xy4` ADD Vx, Vy (R147) -/
  | addReg (x y : RegIdx)
  /-- `8xy5` SUB Vx, Vy (R148) -/
  | sub (x y : RegIdx)
  /-- `8xy6` SHR Vx {, Vy} (R149) -/
  | shr (x y : RegIdx)
  /-- `8xy7` SUBN Vx, Vy (R151) -/
  | subn (x y : RegIdx)
  /-- `8xyE` SHL Vx {, Vy} (R150) -/
  | shl (x y : RegIdx)
  /-- `9xy0` SNE Vx, Vy (R126) -/
  | sneReg (x y : RegIdx)
  /-- `Annn` LD I, addr (R170) -/
  | ldI (nnn : Addr)
  /-- `Bnnn` JP V0, addr (R127) -/
  | jpV0 (nnn : Addr)
  /-- `Cxkk` RND Vx, byte (R152) -/
  | rnd (x : RegIdx) (kk : Byte)
  /-- `Dxyn` DRW Vx, Vy, nibble (R191) -/
  | drw (x y : RegIdx) (n : Nibble)
  /-- `Ex9E` SKP Vx (R201) -/
  | skp (x : RegIdx)
  /-- `ExA1` SKNP Vx (R202) -/
  | sknp (x : RegIdx)
  /-- `Fx07` LD Vx, DT (R203) -/
  | ldVxDt (x : RegIdx)
  /-- `Fx0A` LD Vx, K (R204) -/
  | ldVxK (x : RegIdx)
  /-- `Fx15` LD DT, Vx (R205) -/
  | ldDtVx (x : RegIdx)
  /-- `Fx18` LD ST, Vx (R206) -/
  | ldStVx (x : RegIdx)
  /-- `Fx1E` ADD I, Vx (R172) -/
  | addIVx (x : RegIdx)
  /-- `Fx29` LD F, Vx (R173) -/
  | ldFVx (x : RegIdx)
  /-- `Fx33` LD B, Vx (R174) -/
  | ldBVx (x : RegIdx)
  /-- `Fx55` LD [I], Vx (R175) -/
  | ldMemVx (x : RegIdx)
  /-- `Fx65` LD Vx, [I] (R176) -/
  | ldVxMem (x : RegIdx)
  deriving DecidableEq, Repr

end Sys2Proof
end

