-- ==== Sys2Proof/WellFormed.lean ====
section
/-! DEFINITION. What is well formed beyond the types: the ranges of the parameters of 00_scope.md R9.
An INSTRUCTION has no ill-formed term: each operand field is carried at its own width and "every value" of
a field is a defined encoding (30_encoding.md R82, R88), so `Instr.wellFormed` refuses nothing. -/

namespace Sys2Proof

/-- Every term of `Instr` is well formed: its fields range over exactly the values the encoding admits
(R82, R88). -/
def Instr.wellFormed (_ : Instr) : Bool := true

/-- `PROGRAM_CEILING` lies in `0x200`..`0x1000` (R9, D24); every other parameter admits all its values. -/
def Config.wellFormed (c : Config) : Bool :=
  decide (0x200 ≤ c.programCeiling) && decide (c.programCeiling ≤ 0x1000)

end Sys2Proof
end

