-- ==== Sys2Proof/Decode.lean ====
section
/-! DEFINITION. The decoder of 30_encoding.md R84, total on every word and on any bytes, and after it the
encoder, written from the same layout (R81, R83). Sub-codes other than `00E0`, `00EE`, `Ex9E`, `ExA1` and
`Fx0A` are the standard CHIP-8 values the spec supplies: PRESUMED (D31, log 131). -/

namespace Sys2Proof

/-- What the decoder makes of a word: a known operation or `Undefined(word)` (R84). -/
inductive Decoded where
  | known (i : Instr)
  /-- The decoder's result for a word that names no operation (R14, R87). -/
  | undefined (w : Word)
  deriving DecidableEq, Repr

/-- `op = w[15:12]`, the family selector (R81). -/
def opField (w : Word) : Nibble := w.extractLsb' 12 4

/-- `x = w[11:8]` (R81). -/
def xField (w : Word) : RegIdx := w.extractLsb' 8 4

/-- `y = w[7:4]` (R81). -/
def yField (w : Word) : RegIdx := w.extractLsb' 4 4

/-- `n = w[3:0]` (R81). -/
def nField (w : Word) : Nibble := w.extractLsb' 0 4

/-- `kk = w[7:0]` (R81). -/
def kkField (w : Word) : Byte := w.extractLsb' 0 8

/-- `nnn = w[11:0]` (R81). -/
def nnnField (w : Word) : Addr := w.extractLsb' 0 12

/-- Family 0 has exactly two defined words; every other `0nnn`, SYS among them, is undefined (R86). -/
def decodeFamily0 (w : Word) : Decoded :=
  if w = 0x00E0#16 then .known .cls
  else if w = 0x00EE#16 then .known .ret
  else .undefined w

/-- Family 8, the register-register ALU, by its sub-operation `n` (R84). -/
def decodeFamily8 (w : Word) : Decoded :=
  match nField w with
  | 0x0#4 => .known (.ldReg (xField w) (yField w))
  | 0x1#4 => .known (.or (xField w) (yField w))
  | 0x2#4 => .known (.and (xField w) (yField w))
  | 0x3#4 => .known (.xor (xField w) (yField w))
  | 0x4#4 => .known (.addReg (xField w) (yField w))
  | 0x5#4 => .known (.sub (xField w) (yField w))
  | 0x6#4 => .known (.shr (xField w) (yField w))
  | 0x7#4 => .known (.subn (xField w) (yField w))
  | 0xE#4 => .known (.shl (xField w) (yField w))
  | _ => .undefined w

/-- Family E, the keypad skips, by its sub-operation byte `kk` (R84). -/
def decodeFamilyE (w : Word) : Decoded :=
  match kkField w with
  | 0x9E#8 => .known (.skp (xField w))
  | 0xA1#8 => .known (.sknp (xField w))
  | _ => .undefined w

/-- Family F, registers, timers and memory transfers, by its sub-operation byte `kk` (R84). -/
def decodeFamilyF (w : Word) : Decoded :=
  match kkField w with
  | 0x07#8 => .known (.ldVxDt (xField w))
  | 0x0A#8 => .known (.ldVxK (xField w))
  | 0x15#8 => .known (.ldDtVx (xField w))
  | 0x18#8 => .known (.ldStVx (xField w))
  | 0x1E#8 => .known (.addIVx (xField w))
  | 0x29#8 => .known (.ldFVx (xField w))
  | 0x33#8 => .known (.ldBVx (xField w))
  | 0x55#8 => .known (.ldMemVx (xField w))
  | 0x65#8 => .known (.ldVxMem (xField w))
  | _ => .undefined w

/-- The complete decoding function (R84). The last arm cannot be reached: sixteen families cover a nibble. -/
def decode (w : Word) : Decoded :=
  match opField w with
  | 0x0#4 => decodeFamily0 w
  | 0x1#4 => .known (.jp (nnnField w))
  | 0x2#4 => .known (.call (nnnField w))
  | 0x3#4 => .known (.seImm (xField w) (kkField w))
  | 0x4#4 => .known (.sneImm (xField w) (kkField w))
  | 0x5#4 => if nField w = 0x0#4 then .known (.seReg (xField w) (yField w)) else .undefined w
  | 0x6#4 => .known (.ldImm (xField w) (kkField w))
  | 0x7#4 => .known (.addImm (xField w) (kkField w))
  | 0x8#4 => decodeFamily8 w
  | 0x9#4 => if nField w = 0x0#4 then .known (.sneReg (xField w) (yField w)) else .undefined w
  | 0xA#4 => .known (.ldI (nnnField w))
  | 0xB#4 => .known (.jpV0 (nnnField w))
  | 0xC#4 => .known (.rnd (xField w) (kkField w))
  | 0xD#4 => .known (.drw (xField w) (yField w) (nField w))
  | 0xE#4 => decodeFamilyE w
  | 0xF#4 => decodeFamilyF w
  | _ => .undefined w

/-- Big-endian: the byte at the lower address is the high byte of the word (R57, R58). -/
def wordOfBytes (hi lo : Byte) : Word := hi ++ lo

/-- The two bytes of a word in the order they stand in memory (R57). -/
def bytesOfWord (w : Word) : List Byte := [w.extractLsb' 8 8, w.extractLsb' 0 8]

/-- Why a byte sequence does not begin with an instruction. -/
inductive DecodeError where
  /-- Fewer than the two bytes of a word (R80). -/
  | truncated
  /-- `Undefined(word)` (R87). -/
  | undefinedWord (w : Word)
  deriving DecidableEq, Repr

/-- The instruction at the head of a byte sequence, with the bytes after it (R80, R84). -/
def decodeBytes : List Byte → Except DecodeError (Instr × List Byte)
  | hi :: lo :: rest =>
    match decode (wordOfBytes hi lo) with
    | .known i => .ok (i, rest)
    | .undefined w => .error (.undefinedWord w)
  | _ => .error .truncated

/-- The word an instruction-table word of `nbits` bits stands for; the bits above are zero. -/
def tableWord (nbits w : Nat) : Word := BitVec.ofNat 16 (w % 2 ^ nbits)

/-- The instruction the decoder reads from the bytes of a table word; every instruction is one 16-bit word
(R80), so there is none for a longer one. -/
def decodeTableWord (nbits w : Nat) : Option Instr :=
  if 16 < nbits then none
  else
    match decodeBytes (bytesOfWord (tableWord nbits w)) with
    | .ok (i, _) => some i
    | .error _ => none

/-- Format FA, `onnn` (R83). -/
def encAddr (op : Nibble) (nnn : Addr) : Word := op ++ nnn

/-- Formats FXK and FXS, `oxkk` (R83). -/
def encRegByte (op : Nibble) (x : RegIdx) (kk : Byte) : Word := op ++ x ++ kk

/-- Formats FXY and FXYN, `oxyS` and `oxyn` (R83). -/
def encRegReg (op : Nibble) (x y : RegIdx) (n : Nibble) : Word := op ++ x ++ y ++ n

/-- The word of an instruction (R83, opcode_table.json). -/
def encode : Instr → Word
  | .cls => 0x00E0#16
  | .ret => 0x00EE#16
  | .jp nnn => encAddr 0x1#4 nnn
  | .call nnn => encAddr 0x2#4 nnn
  | .seImm x kk => encRegByte 0x3#4 x kk
  | .sneImm x kk => encRegByte 0x4#4 x kk
  | .seReg x y => encRegReg 0x5#4 x y 0x0#4
  | .ldImm x kk => encRegByte 0x6#4 x kk
  | .addImm x kk => encRegByte 0x7#4 x kk
  | .ldReg x y => encRegReg 0x8#4 x y 0x0#4
  | .or x y => encRegReg 0x8#4 x y 0x1#4
  | .and x y => encRegReg 0x8#4 x y 0x2#4
  | .xor x y => encRegReg 0x8#4 x y 0x3#4
  | .addReg x y => encRegReg 0x8#4 x y 0x4#4
  | .sub x y => encRegReg 0x8#4 x y 0x5#4
  | .shr x y => encRegReg 0x8#4 x y 0x6#4
  | .subn x y => encRegReg 0x8#4 x y 0x7#4
  | .shl x y => encRegReg 0x8#4 x y 0xE#4
  | .sneReg x y => encRegReg 0x9#4 x y 0x0#4
  | .ldI nnn => encAddr 0xA#4 nnn
  | .jpV0 nnn => encAddr 0xB#4 nnn
  | .rnd x kk => encRegByte 0xC#4 x kk
  | .drw x y n => encRegReg 0xD#4 x y n
  | .skp x => encRegByte 0xE#4 x 0x9E#8
  | .sknp x => encRegByte 0xE#4 x 0xA1#8
  | .ldVxDt x => encRegByte 0xF#4 x 0x07#8
  | .ldVxK x => encRegByte 0xF#4 x 0x0A#8
  | .ldDtVx x => encRegByte 0xF#4 x 0x15#8
  | .ldStVx x => encRegByte 0xF#4 x 0x18#8
  | .addIVx x => encRegByte 0xF#4 x 0x1E#8
  | .ldFVx x => encRegByte 0xF#4 x 0x29#8
  | .ldBVx x => encRegByte 0xF#4 x 0x33#8
  | .ldMemVx x => encRegByte 0xF#4 x 0x55#8
  | .ldVxMem x => encRegByte 0xF#4 x 0x65#8

/-- The bytes of an instruction as they stand in memory (R57, R80). -/
def encodeBytes (i : Instr) : List Byte := bytesOfWord (encode i)

/-- A row of spec/opcode_table.json: the fixed bits of an instruction, as the table's `mask` and `match`.
It stands beside the case-by-case decoder so that the two can be held against each other. -/
abbrev OpcodeRow := String × Word × Word

/-- The row of each instruction: its mnemonic, mask and match in spec/opcode_table.json. -/
def opcodeRow : Instr → OpcodeRow
  | .cls => ("CLS", 0xFFFF#16, 0x00E0#16)
  | .ret => ("RET", 0xFFFF#16, 0x00EE#16)
  | .jp _ => ("JP", 0xF000#16, 0x1000#16)
  | .call _ => ("CALL", 0xF000#16, 0x2000#16)
  | .seImm _ _ => ("SE_IMM", 0xF000#16, 0x3000#16)
  | .sneImm _ _ => ("SNE_IMM", 0xF000#16, 0x4000#16)
  | .seReg _ _ => ("SE_REG", 0xF00F#16, 0x5000#16)
  | .ldImm _ _ => ("LD_IMM", 0xF000#16, 0x6000#16)
  | .addImm _ _ => ("ADD_IMM", 0xF000#16, 0x7000#16)
  | .ldReg _ _ => ("LD_REG", 0xF00F#16, 0x8000#16)
  | .or _ _ => ("OR", 0xF00F#16, 0x8001#16)
  | .and _ _ => ("AND", 0xF00F#16, 0x8002#16)
  | .xor _ _ => ("XOR", 0xF00F#16, 0x8003#16)
  | .addReg _ _ => ("ADD_REG", 0xF00F#16, 0x8004#16)
  | .sub _ _ => ("SUB", 0xF00F#16, 0x8005#16)
  | .shr _ _ => ("SHR", 0xF00F#16, 0x8006#16)
  | .subn _ _ => ("SUBN", 0xF00F#16, 0x8007#16)
  | .shl _ _ => ("SHL", 0xF00F#16, 0x800E#16)
  | .sneReg _ _ => ("SNE_REG", 0xF00F#16, 0x9000#16)
  | .ldI _ => ("LD_I", 0xF000#16, 0xA000#16)
  | .jpV0 _ => ("JP_V0", 0xF000#16, 0xB000#16)
  | .rnd _ _ => ("RND", 0xF000#16, 0xC000#16)
  | .drw _ _ _ => ("DRW", 0xF000#16, 0xD000#16)
  | .skp _ => ("SKP", 0xF0FF#16, 0xE09E#16)
  | .sknp _ => ("SKNP", 0xF0FF#16, 0xE0A1#16)
  | .ldVxDt _ => ("LD_VX_DT", 0xF0FF#16, 0xF007#16)
  | .ldVxK _ => ("LD_VX_K", 0xF0FF#16, 0xF00A#16)
  | .ldDtVx _ => ("LD_DT_VX", 0xF0FF#16, 0xF015#16)
  | .ldStVx _ => ("LD_ST_VX", 0xF0FF#16, 0xF018#16)
  | .addIVx _ => ("ADD_I_VX", 0xF0FF#16, 0xF01E#16)
  | .ldFVx _ => ("LD_F_VX", 0xF0FF#16, 0xF029#16)
  | .ldBVx _ => ("LD_B_VX", 0xF0FF#16, 0xF033#16)
  | .ldMemVx _ => ("LD_MEM_VX", 0xF0FF#16, 0xF055#16)
  | .ldVxMem _ => ("LD_VX_MEM", 0xF0FF#16, 0xF065#16)

end Sys2Proof
end

