-- ==== Sys2Proof/Machine/Defaults.lean ====
section
/-! DEFINITION. This spec's defaults for the parameters of 00_scope.md R9, with which `State.reset` is built.
The machine itself takes every parameter value from `State.config` (log 4). -/

namespace Sys2Proof.Machine

/-- `FONT_BASE`, the address of glyph 0: `0x000` is the only value R9 admits (R51, D10, log 110). -/
def fontBase : Nat := 0x000

/-- The default `FONT`: the standard CHIP-8 hex font of 93_implementation_defined.md section 4, one glyph a
line. PRESUMED: "from general knowledge, not in source" (D11, log 5). -/
def defaultFont : Font :=
  ⟨#[0xF0, 0x90, 0x90, 0x90, 0xF0,
     0x20, 0x60, 0x20, 0x20, 0x70,
     0xF0, 0x10, 0xF0, 0x80, 0xF0,
     0xF0, 0x10, 0xF0, 0x10, 0xF0,
     0x90, 0x90, 0xF0, 0x10, 0x10,
     0xF0, 0x80, 0xF0, 0x10, 0xF0,
     0xF0, 0x80, 0xF0, 0x90, 0xF0,
     0xF0, 0x10, 0x20, 0x40, 0x40,
     0xF0, 0x90, 0xF0, 0x90, 0xF0,
     0xF0, 0x90, 0xF0, 0x10, 0xF0,
     0xF0, 0x90, 0xF0, 0x90, 0x90,
     0xE0, 0x90, 0xE0, 0x90, 0xE0,
     0xF0, 0x80, 0x80, 0x80, 0xF0,
     0xE0, 0x90, 0x90, 0x90, 0xE0,
     0xF0, 0x80, 0xF0, 0x80, 0xF0,
     0xF0, 0x80, 0xF0, 0x80, 0x80], rfl⟩

/-- The defaults of R9. DESIGN CHOICE of the spec (D4, D8, D18, D24; log 4); the font is PRESUMED (log 5). -/
def defaultConfig : Config where
  programCeiling := 0x600
  font := defaultFont
  shiftSource := .vx
  lsAdvancesI := false
  pcPolicy := .strict

end Sys2Proof.Machine
end

