-- ==== Sys2Proof/Machine/State.lean ====
section
/-! DEFINITION. The state of the machine (10_state.md R20 to R38) as plain data, the reasons a step can stop,
and the state after construction. -/

namespace Sys2Proof.Machine

/-- Memory as a list of cells in one canonical form (`Memory.wf`); an address that is not listed reads as
the construction image (R38, log 11). -/
abbrev Memory := List Host.Cell

/-- The 64 x 32 framebuffer (R34): row `y` is a 64-bit word whose bit `x` is the pixel `(x, y)`, which is
`FB[y*64 + x]` (log 12). -/
abbrev Framebuffer := Vector (BitVec 64) 32

/-- The keypad: sixteen booleans, `true` for a pressed key (R35). -/
abbrev Keypad := Vector Bool 16

/-- The five error kinds (R220). -/
inductive ErrorKind where
  /-- The fetched word decodes to `Undefined(word)` (R104). -/
  | unknownOpcode
  /-- `2nnn` with a full stack (R122). -/
  | stackOverflow
  /-- `00EE` with an empty stack (R120). -/
  | stackUnderflow
  /-- A fetch, read or write at an address that fails its check (R55, R56, R102). -/
  | addressOutOfRange
  /-- `load_program` with too long an image (R262): load-time and recoverable, never in `STATUS`. -/
  | romTooLarge
  deriving DecidableEq, Repr

/-- The run status (R36): `Halted` records the error kind, the `PC` of the failing instruction and its raw
word, or none when the word could not be fetched (R221). -/
inductive Status where
  | running
  | halted (kind : ErrorKind) (pc : Word) (word : Option Word)
  deriving DecidableEq, Repr

/-- What the host can do between cycles (R235). -/
inductive HostAction where
  /-- Execute one instruction (R110). -/
  | cycle
  /-- Count both timers down (R230). -/
  | tick
  /-- `K <- K'` (R242). -/
  | setKeys (pressed : Keypad)
  /-- Copy a program image to `0x200` (R261). -/
  | loadProgram (image : List Byte)
  deriving DecidableEq, Repr

/-- The Machine of R20 (its eleven components) and, after them, the model's own fields: the parameters, the
free-value counter and the host's inputs, which the spec gives the step as arguments (R9, R37, R235). -/
structure State where
  /-- `MEM` (R20, R50). -/
  mem : Memory
  /-- `V[0]`..`V[15]` (R22). -/
  v : Vector Byte 16
  /-- `I` (R25). -/
  i : Word
  /-- `PC` (R27). -/
  pc : Word
  /-- `SP`, the number of occupied stack entries (R30). -/
  sp : Word
  /-- `S[0]`..`S[15]` (R29). -/
  stack : Vector Word 16
  /-- `DT` (R32). -/
  dt : Byte
  /-- `ST` (R33). -/
  st : Byte
  /-- `FB` (R34). -/
  fb : Framebuffer
  /-- `K`, written only by the host (R35). -/
  keys : Keypad
  /-- `STATUS` (R36). -/
  status : Status
  /-- The model's own: the parameters of R9, which nothing writes (log 4). -/
  config : Config
  /-- The model's own: how many random bytes have been drawn (R37, log 6). -/
  draws : Nat
  /-- The model's own: the host's next actions in order; when there is none, the host runs a cycle (R231, log 7). -/
  schedule : List HostAction
  /-- The model's own: no cycle has run and no image was loaded, so `load_program` is admitted (R263, log 8). -/
  loadable : Bool
  deriving DecidableEq, Repr

/-- Why the machine stops with a fault. -/
inductive Fault where
  /-- Raised by RET and CALL when `SP` is above 16: `S` has no such entry and the spec gives no effect, since
  only `0`..`16` are reachable (R30). Safe: no reachable state raises it (log 10). -/
  | stackPointerOutOfRange
  deriving DecidableEq, Repr

/-- Why an action is refused. -/
inductive Refusal where
  /-- Raised by `exec` for an instruction that has no meaning yet; no arm does. Safe. -/
  | notModelled (mnemonic : String)
  /-- Raised by `step` for a cycle or a tick of a `Halted` machine: neither is enabled (R225, U10). Safe (log 3). -/
  | machineHalted
  /-- Raised by `step` for an image longer than the program space; the machine is unchanged (R262, U11). Safe (log 9). -/
  | romTooLarge
  /-- Raised by `step` for a second load or a load after the first cycle (R263, U12). Safe (log 9). -/
  | loadNotAdmitted
  deriving DecidableEq, Repr

/-- The outcome of an instruction or a step. -/
abbrev Result := Host.Outcome State Fault Refusal

/-- Construction, the only reset (R38, R260), for a machine with the given parameters. -/
def State.construct (config : Config) : State where
  mem := []
  v := Vector.replicate 16 0x00#8
  i := 0x0000#16
  pc := 0x0200#16
  sp := 0#16
  stack := Vector.replicate 16 0x0000#16
  dt := 0x00#8
  st := 0x00#8
  fb := Vector.replicate 32 0#64
  keys := Vector.replicate 16 false
  status := .running
  config := config
  draws := 0
  schedule := []
  loadable := true

/-- The machine right after reset, with this spec's default parameters (R9, R38). -/
def State.reset : State := State.construct defaultConfig

end Sys2Proof.Machine
end

