-- ==== Sys2Proof/Machine/Memory.lean ====
section
/-! DEFINITION. Memory as a sparse list of cells in canonical form: what construction leaves (10_state.md
R38), reading and writing one byte, and a run of bytes (20_memory.md R50 to R57). -/

namespace Sys2Proof.Machine

/-- What an address reads as when nothing has written it: the font at `FONT_BASE`, `0x00` elsewhere (R38, R51). -/
def initialByte (font : Font) (a : Nat) : Byte :=
  if a < fontBase then 0x00#8 else (font[a - fontBase]?).getD 0x00#8

/-- The listed byte of an address, if it is listed. -/
def Memory.find : Memory → Nat → Option Byte
  | [], _ => none
  | (b, u) :: m, a => if a = b then some u else Memory.find m a

/-- `MEM[a]` (R50). -/
def Memory.read (font : Font) (m : Memory) (a : Nat) : Byte :=
  (m.find a).getD (initialByte font a)

/-- Lists a byte at an address, in address order, in place of the one listed there. -/
def Memory.insert : Memory → Nat → Byte → Memory
  | [], a, b => [(a, b)]
  | (c, u) :: m, a, b =>
    if a < c then (a, b) :: (c, u) :: m
    else if a = c then (a, b) :: m
    else (c, u) :: Memory.insert m a b

/-- Takes an address off the list, so that it reads as construction left it. -/
def Memory.erase (m : Memory) (a : Nat) : Memory := m.filter (fun c => c.1 != a)

/-- `MEM[a] <- b` (R56), keeping the canonical form. -/
def Memory.write (font : Font) (m : Memory) (a : Nat) (b : Byte) : Memory :=
  if b = initialByte font a then m.erase a else m.insert a b

/-- Writes bytes at consecutive addresses, in order (R54). -/
def Memory.writeList (font : Font) : Memory → Nat → List Byte → Memory
  | m, _, [] => m
  | m, a, b :: bs => Memory.writeList font (m.write font a b) (a + 1) bs

/-- The canonical form: addresses strictly rising, inside the address space (R50), and no cell equal to what
its address reads as unlisted. -/
abbrev Memory.wf (font : Font) (m : Memory) : Prop :=
  m.Pairwise (fun c d => c.1 < d.1) ∧ ∀ c ∈ m, c.1 < 0x1000 ∧ c.2 ≠ initialByte font c.1

end Sys2Proof.Machine
end

