-- ==== Sys2Proof/Machine/Ops.lean ====
section
/-! DEFINITION. The named operations over the state that the meanings are written in: registers, memory
accesses with their checks (20_memory.md R55 to R61), the call stack (10_state.md R29 to R31), the fetch
(40_cycle.md R101, R102), the program counter (R105), and raising an error (60_exceptions.md R221). -/

namespace Sys2Proof.Machine

/-! ## Registers -/

/-- `V[x]` (R22): no register is hardwired. -/
def State.getV (s : State) (x : RegIdx) : Byte := s.v[x.toNat]'x.isLt

/-- `V[x] <- b` (R22). -/
def State.setV (s : State) (x : RegIdx) (b : Byte) : State := { s with v := s.v.set x.toNat b x.isLt }

/-- `V[j] <- b[j]` for consecutive `j` from a first index (R176). -/
def writeRegs : Vector Byte 16 → Nat → List Byte → Vector Byte 16
  | v, _, [] => v
  | v, j, b :: bs => writeRegs (v.setIfInBounds j b) (j + 1) bs

/-- `V[0]`..`V[n-1] <- bytes` (R176). -/
def State.setBlock (s : State) (bytes : List Byte) : State := { s with v := writeRegs s.v 0 bytes }

/-- The values of `V[0]`..`V[n-1]` (R175). -/
def State.regBlock (s : State) (n : Nat) : List Byte := s.v.toList.take n

/-- `I <- w` (R25). -/
def State.setI (s : State) (w : Word) : State := { s with i := w }

/-- `DT <- b` (R32). -/
def State.setDt (s : State) (b : Byte) : State := { s with dt := b }

/-- `ST <- b` (R33). -/
def State.setSt (s : State) (b : Byte) : State := { s with st := b }

/-- `FB <- fb` (R34). -/
def State.setFb (s : State) (fb : Framebuffer) : State := { s with fb := fb }

/-! ## The program counter (R105) -/

/-- `PC <- w`, with no further increment (R105). -/
def State.setPc (s : State) (w : Word) : State := { s with pc := w }

/-- `PC <- pc0 + 2` (R105); the sum is 16 bits and not reduced to 12 (R28). -/
def State.advance (s : State) : State := s.setPc (s.pc + 2#16)

/-- `PC <- pc0 + 4` if the skip condition holds, else `pc0 + 2` (R105). -/
def State.skipIf (s : State) (c : Bool) : State := if c then s.setPc (s.pc + 4#16) else s.advance

/-! ## Memory accesses -/

/-- `MEM[a]` with no check (R50). -/
def State.readByte (s : State) (a : Nat) : Byte := Memory.read s.config.font s.mem a

/-- The bytes at `a`..`a + n - 1`, with no check. -/
def State.readBytes (s : State) (a n : Nat) : List Byte := (List.range n).map fun j => s.readByte (a + j)

/-- Bytes stored at consecutive addresses from `a`, with no check. -/
def State.writeBytes (s : State) (a : Nat) (bytes : List Byte) : State :=
  { s with mem := Memory.writeList s.config.font s.mem a bytes }

/-- The check of `MemRead(a, 1)` (R55). -/
def readable (a : Nat) : Bool := decide (a ≤ 0xFFF)

/-- The checks of `MemWrite(a, 1, v)`: inside memory and above the reserved region (R52, R56). -/
def writable (a : Nat) : Bool := decide (0x200 ≤ a) && decide (a ≤ 0xFFF)

/-- `MemRead` of `n` bytes from `a`, all checked before any is read (R55, R61). -/
def State.loadBlock (s : State) (a n : Nat) : Except ErrorKind (List Byte) :=
  if (List.range n).all (fun j => readable (a + j)) then .ok (s.readBytes a n)
  else .error .addressOutOfRange

/-- `MemWrite` of bytes from `a`, all checked before any is written (R56, R61). -/
def State.storeBlock (s : State) (a : Nat) (bytes : List Byte) : Except ErrorKind State :=
  if (List.range bytes.length).all (fun j => writable (a + j)) then .ok (s.writeBytes a bytes)
  else .error .addressOutOfRange

/-! ## The call stack -/

/-- A push: `S[SP] <- w`, then `SP <- SP + 1` (R30); none where `S[SP]` does not exist. -/
def State.push? (s : State) (w : Word) : Option State :=
  if h : s.sp.toNat < 16 then some { s with stack := s.stack.set s.sp.toNat w h, sp := s.sp + 1#16 }
  else none

/-- A pop: `SP <- SP - 1`, then the entry `S[SP]`, which is not cleared (R30, R31); none where there is no
such entry. -/
def State.pop? (s : State) : Option (Word × State) :=
  if h : 1 ≤ s.sp.toNat ∧ s.sp.toNat ≤ 16 then
    some (s.stack[s.sp.toNat - 1]'(by omega), { s with sp := s.sp - 1#16 })
  else none

/-! ## Raising an error

There is no trap entry: an error transfers control nowhere, saves nothing but the report in `STATUS`, and has
no return (R225, R226). -/

/-- `raise E`: nothing is committed, `STATUS <- Halted(E, pc0, word)` (R106, R221). `PC` still holds the
address of the failing instruction (R27). The machine goes to a NEXT state that is halted (log 1). -/
def State.raise (s : State) (kind : ErrorKind) (word : Option Word) : Result :=
  .next { s with status := .halted kind s.pc word }

/-- An error raised by an instruction records the instruction's own word. DEDUCED: the word is the encoding
of the decoded instruction, since decoding loses no bit (R88, log 2). -/
def State.raiseIn (s : State) (instr : Instr) (kind : ErrorKind) : Result := s.raise kind (some (encode instr))

/-- Commits an instruction's effects whole, or raises and commits none (R106, R110). -/
def State.commit (s : State) (instr : Instr) : Except ErrorKind State → Result
  | .ok t => .next t
  | .error kind => s.raiseIn instr kind

/-! ## Fetch -/

/-- `FetchWord(a)`, big-endian (R57). -/
def State.fetchWord (s : State) (a : Nat) : Except ErrorKind Word :=
  if 0xFFF < a + 1 then .error .addressOutOfRange
  else .ok (wordOfBytes (s.readByte a) (s.readByte (a + 1)))

/-- The first check of R102: `PC_POLICY = strict` faults an odd `PC` and one below `0x200`. -/
def State.policyFaults (s : State) : Bool :=
  (decide (s.pc.toNat % 2 = 1) || decide (s.pc.toNat < 0x200)) && decide (s.config.pcPolicy = .strict)

/-- The fetch of a cycle, its checks in the order of R102. -/
def State.fetch (s : State) : Except ErrorKind Word :=
  if s.policyFaults then .error .addressOutOfRange else s.fetchWord s.pc.toNat

end Sys2Proof.Machine
end

