-- ==== Sys2Proof/Machine/Flags.lean ====
section
/-! DEFINITION. Every flag computation of the spec. The flags live in `VF` alone (10_state.md R23, R24); the
only flag-writing instructions are `8xy4` to `8xy7`, `8xyE` and `Dxyn` (R23). -/

namespace Sys2Proof.Machine

/-- A flag as the byte written to `VF`: 1 or 0 (R147). -/
def flagByte (c : Bool) : Byte := if c then 0x01#8 else 0x00#8

/-- Carry out of bit 7 of `a + b` (R147). -/
def carryFlag (a b : Byte) : Byte := flagByte (decide (255 < a.toNat + b.toNat))

/-- NOT borrow of `a - b`: 1 exactly when `a >= b` (R148, R151). -/
def notBorrowFlag (a b : Byte) : Byte := flagByte (decide (b.toNat ≤ a.toNat))

/-- The bit a right shift drops, bit 0 (R149). -/
def droppedLowFlag (a : Byte) : Byte := flagByte (a.getLsbD 0)

/-- The bit a left shift drops, bit 7 (R150). -/
def droppedHighFlag (a : Byte) : Byte := flagByte (a.getLsbD 7)

/-- The result is written first and the flag last, so with `x = 0xF` the flag stays (R108, D6, log 106). -/
def State.setResultAndFlag (s : State) (x : RegIdx) (result flag : Byte) : State :=
  (s.setV x result).setV VF flag

end Sys2Proof.Machine
end

