-- ==== Sys2Proof/Machine/Operands.lean ====
section
/-! DEFINITION. The operand forms of the spec: extended immediates (30_encoding.md R82), the arithmetic
results (42_register_alu.md), the shifted operand (R149, R150), register-indirect addresses
(43_index_memory.md R171), the glyph address (R173), decimal digits (R174) and the selected key
(45_keypad_timer.md R200, R204). -/

namespace Sys2Proof.Machine

/-- `zext_16(nnn)` (R82). -/
def addrWord (nnn : Addr) : Word := nnn.setWidth 16

/-- The target of `Bnnn`, `zext_16(nnn) + zext_16(V[0])`, not reduced (R127). -/
def State.offsetTarget (s : State) (nnn : Addr) : Word := addrWord nnn + (s.getV 0x0#4).setWidth 16

/-- `(a + b) mod 256` (R109, R141, R147). -/
def sumByte (a b : Byte) : Byte := BitVec.ofNat 8 (a.toNat + b.toNat)

/-- `(a - b) mod 256`, the difference taken as an integer (R148, R151). -/
def differenceByte (a b : Byte) : Byte := BitVec.ofInt 8 ((a.toNat : Int) - (b.toNat : Int))

/-- The operand of `8xy6` and `8xyE`, as `SHIFT_SOURCE` says (R149, R150). -/
def State.shiftOperand (s : State) (x y : RegIdx) : Byte :=
  match s.config.shiftSource with
  | .vx => s.getV x
  | .vy => s.getV y

/-- The effective address `I + j`, a natural number that is not reduced (R171). -/
def State.effAddr (s : State) (j : Nat) : Nat := s.i.toNat + j

/-- `(I + k) mod 4096` (R109, R172). -/
def State.indexPlus (s : State) (k : Nat) : Word := BitVec.ofNat 16 ((s.i.toNat + k) % 4096)

/-- `I` after `Fx55` and `Fx65`: `(I + x + 1) mod 4096` where `LS_ADVANCES_I`, else as it was (R175, R176). -/
def State.indexAfterBlock (s : State) (x : RegIdx) : Word :=
  if s.config.lsAdvancesI then s.indexPlus (x.toNat + 1) else s.i

/-- The address of the glyph of a digit, the low nibble of the byte: `FONT_BASE + 5 * d` (R173). -/
def glyphAddress (b : Byte) : Word := BitVec.ofNat 16 (fontBase + 5 * (lowNibble b).toNat)

/-- Hundreds, tens and ones of a byte (R174). PRESUMED: the digit order is from general knowledge (D29, log 129). -/
def decimalDigits (b : Byte) : List Byte :=
  [BitVec.ofNat 8 (b.toNat / 100), BitVec.ofNat 8 (b.toNat / 10 % 10), BitVec.ofNat 8 (b.toNat % 10)]

/-- `K[k]` (R35). -/
def State.keyPressed (s : State) (k : Nibble) : Bool := s.keys[k.toNat]'k.isLt

/-- Whether the key that `V[x]` selects by its low nibble is pressed (R200). -/
def State.selectedKeyPressed (s : State) (x : RegIdx) : Bool := s.keyPressed (lowNibble (s.getV x))

/-- The least pressed key, if any key is pressed (R204). -/
def State.leastPressedKey (s : State) : Option Nat := s.keys.toList.findIdx? (fun pressed => pressed)

end Sys2Proof.Machine
end

