-- ==== Sys2Proof/Machine/Sprite.lean ====
section
/-! DEFINITION. The framebuffer and the sprite-draw collision detector (10_state.md R34, 44_display.md R191 to
R193). -/

namespace Sys2Proof.Machine

/-- Pixel `(px, py)`, that is `FB[py*64 + px]`; off outside the 64 x 32 grid (R34). -/
def Framebuffer.pixel (fb : Framebuffer) (px py : Nat) : Bool :=
  if h : py < 32 then (fb[py]'h).getLsbD px else false

/-- `FB[p] <- FB[p] ^ 1` for `p = py*64 + px` (R191). -/
def Framebuffer.toggle (fb : Framebuffer) (px py : Nat) : Framebuffer :=
  if h : py < 32 then fb.set py ((fb[py]'h) ^^^ BitVec.twoPow 64 px) h else fb

/-- Every pixel off (R190). -/
def Framebuffer.clear : Framebuffer := Vector.replicate 32 0#64

/-- Column `cx + b` of the torus (R191). -/
def wrapX (cx b : Nat) : Nat := (cx + b) % 64

/-- Row `cy + j` of the torus (R191). -/
def wrapY (cy j : Nat) : Nat := (cy + j) % 32

/-- Whether bit `b` of a sprite row, counted from the left, is 1: bit 7 is leftmost (R193). PRESUMED: the
width and order are from general knowledge (D12, log 112). -/
def spriteBit (row : Byte) (b : Nat) : Bool := row.getLsbD (7 - b)

/-- The framebuffer while a sprite is being drawn, and the collision seen so far, `c` of R191. -/
abbrev Drawing := Framebuffer × Bool

/-- One bit of sprite row `j`: a 1 bit toggles its pixel and collides if the pixel was on (R191). -/
def drawBit (cx cy j : Nat) (row : Byte) (d : Drawing) (b : Nat) : Drawing :=
  if spriteBit row b then
    (d.1.toggle (wrapX cx b) (wrapY cy j), d.2 || d.1.pixel (wrapX cx b) (wrapY cy j))
  else d

/-- The eight bits of sprite row `j` (R191). -/
def drawRow (cx cy j : Nat) (row : Byte) (d : Drawing) : Drawing :=
  (List.range 8).foldl (drawBit cx cy j row) d

/-- The sprite rows from row `j` on (R191). -/
def drawRows (cx cy : Nat) : Nat → List Byte → Drawing → Drawing
  | _, [], d => d
  | j, row :: rows, d => drawRows cx cy (j + 1) rows (drawRow cx cy j row d)

/-- A whole sprite drawn at `(cx, cy)`, with no collision seen yet (R191). -/
def drawSprite (cx cy : Byte) (rows : List Byte) (fb : Framebuffer) : Drawing :=
  drawRows cx.toNat cy.toNat 0 rows (fb, false)

end Sys2Proof.Machine
end

