-- ==== Sys2Proof/Machine/ControlFlow.lean ====
section
/-! DEFINITION. Control flow instructions (41_control_flow.md R120 to R127). No target is checked when it is
computed; the next fetch checks it (R128). -/

namespace Sys2Proof.Machine

/-- `00EE` RET (R120): the popped entry is the target, with no further increment. `SP` above 16 names no
entry: the model's own fault (log 10). -/
def execRet (s : State) : Result :=
  if s.sp = 0#16 then s.raiseIn .ret .stackUnderflow
  else
    match s.pop? with
    | some (target, t) => .next (t.setPc target)
    | none => .fault .stackPointerOutOfRange

/-- `1nnn` JP addr (R121). -/
def execJp (nnn : Addr) (s : State) : Result := .next (s.setPc (addrWord nnn))

/-- `2nnn` CALL addr (R122): the pushed value is `pc0 + 2` (D1, log 101). `SP` above 16 names no entry: the
model's own fault (log 10). -/
def execCall (nnn : Addr) (s : State) : Result :=
  if s.sp = 16#16 then s.raiseIn (.call nnn) .stackOverflow
  else
    match s.push? (s.pc + 2#16) with
    | some t => .next (t.setPc (addrWord nnn))
    | none => .fault .stackPointerOutOfRange

/-- `3xkk` SE Vx, byte (R123). -/
def execSeImm (x : RegIdx) (kk : Byte) (s : State) : Result := .next (s.skipIf (s.getV x == kk))

/-- `4xkk` SNE Vx, byte (R124). -/
def execSneImm (x : RegIdx) (kk : Byte) (s : State) : Result := .next (s.skipIf (s.getV x != kk))

/-- `5xy0` SE Vx, Vy (R125). -/
def execSeReg (x y : RegIdx) (s : State) : Result := .next (s.skipIf (s.getV x == s.getV y))

/-- `9xy0` SNE Vx, Vy (R126). -/
def execSneReg (x y : RegIdx) (s : State) : Result := .next (s.skipIf (s.getV x != s.getV y))

/-- `Bnnn` JP V0, addr (R127). -/
def execJpV0 (nnn : Addr) (s : State) : Result := .next (s.setPc (s.offsetTarget nnn))

end Sys2Proof.Machine
end

