-- ==== Sys2Proof/Machine/Display.lean ====
section
/-! DEFINITION. Display instructions (44_display.md R190 to R193). -/

namespace Sys2Proof.Machine

/-- `00E0` CLS (R190): `VF` is not written. -/
def execCls (s : State) : Result := .next (s.setFb Framebuffer.clear).advance

/-- `Dxyn` DRW Vx, Vy, nibble (R191): coordinates and address are read before any write, `VF` is written last
(R107). With `n = 0` nothing is read or drawn and `VF` becomes 0 (R192, D13, log 113). -/
def execDrw (x y : RegIdx) (n : Nibble) (s : State) : Result :=
  s.commit (.drw x y n) ((s.loadBlock (s.effAddr 0) n.toNat).map fun rows =>
    let d := drawSprite (s.getV x) (s.getV y) rows s.fb
    ((s.setFb d.1).setV VF (flagByte d.2)).advance)

end Sys2Proof.Machine
end

