-- ==== Sys2Proof/Machine/IndexMemory.lean ====
section
/-! DEFINITION. Index register and memory-transfer instructions (43_index_memory.md R170 to R176). A
multi-byte access is checked whole before any effect (20_memory.md R61). -/

namespace Sys2Proof.Machine

/-- `Annn` LD I, addr (R170). -/
def execLdI (nnn : Addr) (s : State) : Result := .next (s.setI (addrWord nnn)).advance

/-- `Fx1E` ADD I, Vx (R172): modulo 4096, `VF` is not written (D9, log 109). -/
def execAddIVx (x : RegIdx) (s : State) : Result := .next (s.setI (s.indexPlus (s.getV x).toNat)).advance

/-- `Fx29` LD F, Vx (R173). -/
def execLdFVx (x : RegIdx) (s : State) : Result := .next (s.setI (glyphAddress (s.getV x))).advance

/-- `Fx33` LD B, Vx (R174): the decimal digits at `I`, `I + 1`, `I + 2`. -/
def execLdBVx (x : RegIdx) (s : State) : Result :=
  s.commit (.ldBVx x) ((s.storeBlock (s.effAddr 0) (decimalDigits (s.getV x))).map State.advance)

/-- `Fx55` LD [I], Vx (R175): `V0`..`Vx` to memory at `I`. -/
def execLdMemVx (x : RegIdx) (s : State) : Result :=
  s.commit (.ldMemVx x) ((s.storeBlock (s.effAddr 0) (s.regBlock (x.toNat + 1))).map
    fun t => (t.setI (s.indexAfterBlock x)).advance)

/-- `Fx65` LD Vx, [I] (R176): memory at `I` to `V0`..`Vx`; the reserved region may be read (R52). -/
def execLdVxMem (x : RegIdx) (s : State) : Result :=
  s.commit (.ldVxMem x) ((s.loadBlock (s.effAddr 0) (x.toNat + 1)).map
    fun bytes => ((s.setBlock bytes).setI (s.indexAfterBlock x)).advance)

end Sys2Proof.Machine
end

