-- ==== Sys2Proof/Machine/KeypadTimer.lean ====
section
/-! DEFINITION. Keypad and timer instructions (45_keypad_timer.md R200 to R206). The keypad and `DT` are as
they stand at the start of the cycle (10_state.md R35, R203). -/

namespace Sys2Proof.Machine

/-- `Ex9E` SKP Vx (R201). -/
def execSkp (x : RegIdx) (s : State) : Result := .next (s.skipIf (s.selectedKeyPressed x))

/-- `ExA1` SKNP Vx (R202). -/
def execSknp (x : RegIdx) (s : State) : Result := .next (s.skipIf (!s.selectedKeyPressed x))

/-- `Fx07` LD Vx, DT (R203). -/
def execLdVxDt (x : RegIdx) (s : State) : Result := .next (s.setV x s.dt).advance

/-- `Fx0A` LD Vx, K (R204): a poll. With no key pressed nothing changes and `PC` stays, so the next cycle
executes it again; else the least pressed key is stored (D15, log 115). -/
def execLdVxK (x : RegIdx) (s : State) : Result :=
  match s.leastPressedKey with
  | some k => .next (s.setV x (BitVec.ofNat 8 k)).advance
  | none => .next s

/-- `Fx15` LD DT, Vx (R205). -/
def execLdDtVx (x : RegIdx) (s : State) : Result := .next (s.setDt (s.getV x)).advance

/-- `Fx18` LD ST, Vx (R206). -/
def execLdStVx (x : RegIdx) (s : State) : Result := .next (s.setSt (s.getV x)).advance

end Sys2Proof.Machine
end

