-- ==== Sys2Proof/Machine/RegisterAlu.lean ====
section
/-! DEFINITION. Register load and ALU instructions (42_register_alu.md R140 to R152). Operands are read before
any write (40_cycle.md R107); a flag is written after the result (R108); all end with `PC <- pc0 + 2`. -/

namespace Sys2Proof.Machine

/-- `6xkk` LD Vx, byte (R140). -/
def execLdImm (x : RegIdx) (kk : Byte) (s : State) : Result := .next (s.setV x kk).advance

/-- `7xkk` ADD Vx, byte (R141): wrapping, no flag. -/
def execAddImm (x : RegIdx) (kk : Byte) (s : State) : Result :=
  .next (s.setV x (sumByte (s.getV x) kk)).advance

/-- `8xy0` LD Vx, Vy (R143). -/
def execLdReg (x y : RegIdx) (s : State) : Result := .next (s.setV x (s.getV y)).advance

/-- `8xy1` OR Vx, Vy (R144): `VF` is not reset (D5, log 105). -/
def execOr (x y : RegIdx) (s : State) : Result := .next (s.setV x (s.getV x ||| s.getV y)).advance

/-- `8xy2` AND Vx, Vy (R145): `VF` is not reset (D5, log 105). -/
def execAnd (x y : RegIdx) (s : State) : Result := .next (s.setV x (s.getV x &&& s.getV y)).advance

/-- `8xy3` XOR Vx, Vy (R146): `VF` is not reset (D5, log 105). -/
def execXor (x y : RegIdx) (s : State) : Result := .next (s.setV x (s.getV x ^^^ s.getV y)).advance

/-- `8xy4` ADD Vx, Vy (R147): `VF` is the carry. -/
def execAddReg (x y : RegIdx) (s : State) : Result :=
  let a := s.getV x
  let b := s.getV y
  .next (s.setResultAndFlag x (sumByte a b) (carryFlag a b)).advance

/-- `8xy5` SUB Vx, Vy (R148): `VF` is NOT borrow. -/
def execSub (x y : RegIdx) (s : State) : Result :=
  let a := s.getV x
  let b := s.getV y
  .next (s.setResultAndFlag x (differenceByte a b) (notBorrowFlag a b)).advance

/-- `8xy6` SHR Vx {, Vy} (R149): `VF` is the dropped bit. -/
def execShr (x y : RegIdx) (s : State) : Result :=
  let a := s.shiftOperand x y
  .next (s.setResultAndFlag x (a >>> 1) (droppedLowFlag a)).advance

/-- `8xy7` SUBN Vx, Vy (R151): `Vy - Vx`, `VF` is NOT borrow of that difference (D7, log 107). -/
def execSubn (x y : RegIdx) (s : State) : Result :=
  let a := s.getV x
  let b := s.getV y
  .next (s.setResultAndFlag x (differenceByte b a) (notBorrowFlag b a)).advance

/-- `8xyE` SHL Vx {, Vy} (R150): `VF` is the dropped bit. -/
def execShl (x y : RegIdx) (s : State) : Result :=
  let a := s.shiftOperand x y
  .next (s.setResultAndFlag x (a <<< 1) (droppedHighFlag a)).advance

/-- `Cxkk` for a random byte `r` (R152). The draw is counted, so that the next one is a byte of its own. -/
def State.randomAnd (s : State) (r : Byte) (x : RegIdx) (kk : Byte) : State :=
  { (s.setV x (r &&& kk)).advance with draws := s.draws + 1 }

/-- `Cxkk` RND Vx, byte (R152): the random byte is the free value of this draw (log 6). -/
def execRnd (x : RegIdx) (kk : Byte) (s : State) : Result :=
  .next (s.randomAnd (Config.randomByte s.draws) x kk)

end Sys2Proof.Machine
end

