-- ==== Sys2Proof/Machine/Cycle.lean ====
section
/-! DEFINITION. The host's actions (60_exceptions.md R235): the fetch-decode-execute cycle (40_cycle.md R110),
the timer tick (R230), the keypad write (R242) and the program load (70_reset_and_hazards.md R261 to R263);
and what the host may read between actions (R225, R241, R243). -/

namespace Sys2Proof.Machine

/-- One cycle (R100 to R104, R110): fetch, decode, execute. A fetch error records no word; an undefined word
is recorded with `UnknownOpcode`. -/
def State.runCycle (s : State) : Result :=
  match s.fetch with
  | .error kind => s.raise kind none
  | .ok w =>
    match decode w with
    | .undefined u => s.raise .unknownOpcode (some u)
    | .known instr => exec instr s

/-- A timer less one, floored at 0 (R230). -/
def countDown (t : Byte) : Byte := if t = 0x00#8 then 0x00#8 else t - 1#8

/-- `tick()`: both timers in the same tick, nothing else (R230). -/
def State.tickTimers (s : State) : State := { s with dt := countDown s.dt, st := countDown s.st }

/-- `K <- K'` (R242): the last write wins. -/
def State.setKeys (s : State) (pressed : Keypad) : State := { s with keys := pressed }

/-- The largest image `load_program` accepts, `PROGRAM_CEILING - 0x200` (R262). -/
def programSpace (c : Config) : Nat := c.programCeiling - 0x200

/-- `load_program(bytes)` on a freshly constructed machine (R261, R262): the bytes are copied to `0x200` with
none of the checks of `MemWrite`; a failed load changes nothing. -/
def State.loadProgram (s : State) (image : List Byte) : Except ErrorKind State :=
  if programSpace s.config < image.length then .error .romTooLarge
  else .ok { s.writeBytes 0x200 image with loadable := false }

/-- The machine is running (R36). -/
def State.isRunning (s : State) : Bool := decide (s.status = .running)

/-- After the first cycle the machine is no longer fresh (R261, R263, log 8). -/
def State.beginCycle (s : State) : State := { s with loadable := false }

/-- One host action with its precondition (R225, R235). A cycle or a tick of a halted machine, and a load that
is not admitted or fails, is refused (U10 to U12). -/
def State.perform (s : State) : HostAction → Result
  | .cycle => if s.isRunning then s.beginCycle.runCycle else .refused .machineHalted
  | .tick => if s.isRunning then .next s.tickTimers else .refused .machineHalted
  | .setKeys pressed => .next (s.setKeys pressed)
  | .loadProgram image =>
    if s.loadable then
      match s.loadProgram image with
      | .ok t => .next t
      | .error _ => .refused .romTooLarge
    else .refused .loadNotAdmitted

/-- The host's next action (R231, R234): the head of the schedule, or a cycle when nothing is scheduled (log 7). -/
def State.nextAction (s : State) : HostAction :=
  match s.schedule with
  | [] => .cycle
  | action :: _ => action

/-- The state once the next action is taken off the schedule. -/
def State.takeAction (s : State) : State := { s with schedule := s.schedule.tail }

/-- The tone signal, `ST != 0` (R243). -/
def State.toneOn (s : State) : Bool := s.st != 0x00#8

/-- The report the host owes after a fatal error: error kind, program counter, raw word (R36, R225). -/
def State.report (s : State) : Option (ErrorKind × Word × Option Word) :=
  match s.status with
  | .running => none
  | .halted kind pc word => some (kind, pc, word)

/-- The numeric error codes (R220); no program can observe them (D23, log 123). -/
def errorCode : ErrorKind → Nat
  | .unknownOpcode => 1
  | .stackOverflow => 2
  | .stackUnderflow => 3
  | .addressOutOfRange => 4
  | .romTooLarge => 5

/-- Execution-time errors are fatal; `RomTooLarge` is load-time and recoverable (R220). -/
def fatalError (kind : ErrorKind) : Bool := decide (kind ≠ .romTooLarge)

end Sys2Proof.Machine
end

