-- ==== Sys2Proof/Machine/Step.lean ====
section
/-! DEFINITION. One step of the machine: the host's next action (60_exceptions.md R231, R234, R235). -/

namespace Sys2Proof.Machine

/-- One step performs the next host action (log 7). -/
def step (s : State) : Host.Outcome State Fault Refusal := s.takeAction.perform s.nextAction

/-- `s` with an instruction word stored where the next step fetches, both its bytes inside memory (R57), in a
running machine whose next host action is a cycle (log 14). -/
def State.withFetchWord (s : State) (nbits w : Nat) : State :=
  let stored := if s.pc.toNat + 1 ≤ 0xFFF then s.writeBytes s.pc.toNat (bytesOfWord (tableWord nbits w)) else s
  { stored with status := .running, schedule := [] }

end Sys2Proof.Machine
end

