-- ==== Sys2Proof/Laws/Encoding.lean ====
section
/-! SUPPORT. The fields of an encoded word, one lemma per field per format (30_encoding.md R81, R83), and big-endian bytes. -/

namespace Sys2Proof

@[simp] theorem opField_encAddr (op : Nibble) (nnn : Addr) : opField (encAddr op nnn) = op := by
  apply BitVec.eq_of_getLsbD_eq; intro k hk
  simp only [opField, encAddr, BitVec.getLsbD_extractLsb', BitVec.getLsbD_append]
  simp [hk]

@[simp] theorem nnnField_encAddr (op : Nibble) (nnn : Addr) : nnnField (encAddr op nnn) = nnn := by
  apply BitVec.eq_of_getLsbD_eq; intro k hk
  simp only [nnnField, encAddr, BitVec.getLsbD_extractLsb', BitVec.getLsbD_append]
  simp [hk]

@[simp] theorem opField_encRegByte (op : Nibble) (x : RegIdx) (kk : Byte) : opField (encRegByte op x kk) = op := by
  apply BitVec.eq_of_getLsbD_eq; intro k hk
  simp only [opField, encRegByte, BitVec.getLsbD_extractLsb', BitVec.getLsbD_append]
  interval_cases k <;> simp

@[simp] theorem xField_encRegByte (op : Nibble) (x : RegIdx) (kk : Byte) : xField (encRegByte op x kk) = x := by
  apply BitVec.eq_of_getLsbD_eq; intro k hk
  simp only [xField, encRegByte, BitVec.getLsbD_extractLsb', BitVec.getLsbD_append]
  interval_cases k <;> simp

@[simp] theorem kkField_encRegByte (op : Nibble) (x : RegIdx) (kk : Byte) : kkField (encRegByte op x kk) = kk := by
  apply BitVec.eq_of_getLsbD_eq; intro k hk
  simp only [kkField, encRegByte, BitVec.getLsbD_extractLsb', BitVec.getLsbD_append]
  interval_cases k <;> simp

@[simp] theorem opField_encRegReg (op : Nibble) (x y : RegIdx) (n : Nibble) : opField (encRegReg op x y n) = op := by
  apply BitVec.eq_of_getLsbD_eq; intro k hk
  simp only [opField, encRegReg, BitVec.getLsbD_extractLsb', BitVec.getLsbD_append]
  interval_cases k <;> simp

@[simp] theorem xField_encRegReg (op : Nibble) (x y : RegIdx) (n : Nibble) : xField (encRegReg op x y n) = x := by
  apply BitVec.eq_of_getLsbD_eq; intro k hk
  simp only [xField, encRegReg, BitVec.getLsbD_extractLsb', BitVec.getLsbD_append]
  interval_cases k <;> simp

@[simp] theorem yField_encRegReg (op : Nibble) (x y : RegIdx) (n : Nibble) : yField (encRegReg op x y n) = y := by
  apply BitVec.eq_of_getLsbD_eq; intro k hk
  simp only [yField, encRegReg, BitVec.getLsbD_extractLsb', BitVec.getLsbD_append]
  interval_cases k <;> simp

@[simp] theorem nField_encRegReg (op : Nibble) (x y : RegIdx) (n : Nibble) : nField (encRegReg op x y n) = n := by
  apply BitVec.eq_of_getLsbD_eq; intro k hk
  simp only [nField, encRegReg, BitVec.getLsbD_extractLsb', BitVec.getLsbD_append]
  interval_cases k <;> simp

/-- The two stored bytes of a word make it up again (R57). -/
theorem wordOfBytes_bytesOfWord (w : Word) :
    wordOfBytes (w.extractLsb' 8 8) (w.extractLsb' 0 8) = w := by
  apply BitVec.eq_of_getLsbD_eq; intro k hk
  simp only [wordOfBytes, BitVec.getLsbD_extractLsb', BitVec.getLsbD_append]
  interval_cases k <;> simp

theorem wordOfBytes_toNat (hi lo : Byte) : (wordOfBytes hi lo).toNat = 256 * hi.toNat + lo.toNat := by
  have := lo.isLt
  simp only [wordOfBytes, BitVec.toNat_append]
  rw [← Nat.shiftLeft_add_eq_or_of_lt this, Nat.shiftLeft_eq]; omega

end Sys2Proof
end

