-- ==== Sys2Proof/Laws/PerInstr.lean ====
section
/-! SUPPORT. A statement about every instruction as syntax, one lemma per constructor. Family EncodingRow: the
encoded word has exactly the fixed bits its row of spec/opcode_table.json gives it. -/

namespace Sys2Proof.Laws

theorem encRegByte_fixed (op : Nibble) (x : RegIdx) (kk : Byte) :
    encRegByte op x kk &&& 0xF000#16 = op ++ 0#12 := by
  apply BitVec.eq_of_getLsbD_eq; intro k hk
  simp only [encRegByte, BitVec.getLsbD_and, BitVec.getLsbD_append]
  interval_cases k <;> simp

theorem encRegByte_fixed_sub (op : Nibble) (x : RegIdx) (kk : Byte) :
    encRegByte op x kk &&& 0xF0FF#16 = op ++ 0#4 ++ kk := by
  apply BitVec.eq_of_getLsbD_eq; intro k hk
  simp only [encRegByte, BitVec.getLsbD_and, BitVec.getLsbD_append]
  interval_cases k <;> simp

theorem encRegReg_fixed (op : Nibble) (x y : RegIdx) (n : Nibble) :
    encRegReg op x y n &&& 0xF000#16 = op ++ 0#12 := by
  apply BitVec.eq_of_getLsbD_eq; intro k hk
  simp only [encRegReg, BitVec.getLsbD_and, BitVec.getLsbD_append]
  interval_cases k <;> simp

theorem encRegReg_fixed_sub (op : Nibble) (x y : RegIdx) (n : Nibble) :
    encRegReg op x y n &&& 0xF00F#16 = op ++ 0#8 ++ n := by
  apply BitVec.eq_of_getLsbD_eq; intro k hk
  simp only [encRegReg, BitVec.getLsbD_and, BitVec.getLsbD_append]
  interval_cases k <;> simp

theorem encAddr_fixed_op (op : Nibble) (nnn : Addr) : encAddr op nnn &&& 0xF000#16 = op ++ 0#12 := by
  apply BitVec.eq_of_getLsbD_eq; intro k hk
  simp only [encAddr, BitVec.getLsbD_and, BitVec.getLsbD_append]
  interval_cases k <;> simp

/-- The word of an instruction, masked as its opcode-table row says, is the row's match. -/
def EncodingRow.Statement (i : Instr) : Prop := encode i &&& (opcodeRow i).2.1 = (opcodeRow i).2.2

theorem EncodingRow.cls : EncodingRow.Statement (.cls) := by unfold EncodingRow.Statement; decide
theorem EncodingRow.ret : EncodingRow.Statement (.ret) := by unfold EncodingRow.Statement; decide
theorem EncodingRow.jp (nnn : Addr) : EncodingRow.Statement (.jp nnn) := encAddr_fixed_op _ _
theorem EncodingRow.call (nnn : Addr) : EncodingRow.Statement (.call nnn) := encAddr_fixed_op _ _
theorem EncodingRow.seImm (x : RegIdx) (kk : Byte) : EncodingRow.Statement (.seImm x kk) := encRegByte_fixed _ _ _
theorem EncodingRow.sneImm (x : RegIdx) (kk : Byte) : EncodingRow.Statement (.sneImm x kk) := encRegByte_fixed _ _ _
theorem EncodingRow.seReg (x : RegIdx) (y : RegIdx) : EncodingRow.Statement (.seReg x y) := encRegReg_fixed_sub _ _ _ _
theorem EncodingRow.ldImm (x : RegIdx) (kk : Byte) : EncodingRow.Statement (.ldImm x kk) := encRegByte_fixed _ _ _
theorem EncodingRow.addImm (x : RegIdx) (kk : Byte) : EncodingRow.Statement (.addImm x kk) := encRegByte_fixed _ _ _
theorem EncodingRow.ldReg (x : RegIdx) (y : RegIdx) : EncodingRow.Statement (.ldReg x y) := encRegReg_fixed_sub _ _ _ _
theorem EncodingRow.or (x : RegIdx) (y : RegIdx) : EncodingRow.Statement (.or x y) := encRegReg_fixed_sub _ _ _ _
theorem EncodingRow.and (x : RegIdx) (y : RegIdx) : EncodingRow.Statement (.and x y) := encRegReg_fixed_sub _ _ _ _
theorem EncodingRow.xor (x : RegIdx) (y : RegIdx) : EncodingRow.Statement (.xor x y) := encRegReg_fixed_sub _ _ _ _
theorem EncodingRow.addReg (x : RegIdx) (y : RegIdx) : EncodingRow.Statement (.addReg x y) := encRegReg_fixed_sub _ _ _ _
theorem EncodingRow.sub (x : RegIdx) (y : RegIdx) : EncodingRow.Statement (.sub x y) := encRegReg_fixed_sub _ _ _ _
theorem EncodingRow.shr (x : RegIdx) (y : RegIdx) : EncodingRow.Statement (.shr x y) := encRegReg_fixed_sub _ _ _ _
theorem EncodingRow.subn (x : RegIdx) (y : RegIdx) : EncodingRow.Statement (.subn x y) := encRegReg_fixed_sub _ _ _ _
theorem EncodingRow.shl (x : RegIdx) (y : RegIdx) : EncodingRow.Statement (.shl x y) := encRegReg_fixed_sub _ _ _ _
theorem EncodingRow.sneReg (x : RegIdx) (y : RegIdx) : EncodingRow.Statement (.sneReg x y) := encRegReg_fixed_sub _ _ _ _
theorem EncodingRow.ldI (nnn : Addr) : EncodingRow.Statement (.ldI nnn) := encAddr_fixed_op _ _
theorem EncodingRow.jpV0 (nnn : Addr) : EncodingRow.Statement (.jpV0 nnn) := encAddr_fixed_op _ _
theorem EncodingRow.rnd (x : RegIdx) (kk : Byte) : EncodingRow.Statement (.rnd x kk) := encRegByte_fixed _ _ _
theorem EncodingRow.drw (x : RegIdx) (y : RegIdx) (n : Nibble) : EncodingRow.Statement (.drw x y n) := encRegReg_fixed _ _ _ _
theorem EncodingRow.skp (x : RegIdx) : EncodingRow.Statement (.skp x) := encRegByte_fixed_sub _ _ _
theorem EncodingRow.sknp (x : RegIdx) : EncodingRow.Statement (.sknp x) := encRegByte_fixed_sub _ _ _
theorem EncodingRow.ldVxDt (x : RegIdx) : EncodingRow.Statement (.ldVxDt x) := encRegByte_fixed_sub _ _ _
theorem EncodingRow.ldVxK (x : RegIdx) : EncodingRow.Statement (.ldVxK x) := encRegByte_fixed_sub _ _ _
theorem EncodingRow.ldDtVx (x : RegIdx) : EncodingRow.Statement (.ldDtVx x) := encRegByte_fixed_sub _ _ _
theorem EncodingRow.ldStVx (x : RegIdx) : EncodingRow.Statement (.ldStVx x) := encRegByte_fixed_sub _ _ _
theorem EncodingRow.addIVx (x : RegIdx) : EncodingRow.Statement (.addIVx x) := encRegByte_fixed_sub _ _ _
theorem EncodingRow.ldFVx (x : RegIdx) : EncodingRow.Statement (.ldFVx x) := encRegByte_fixed_sub _ _ _
theorem EncodingRow.ldBVx (x : RegIdx) : EncodingRow.Statement (.ldBVx x) := encRegByte_fixed_sub _ _ _
theorem EncodingRow.ldMemVx (x : RegIdx) : EncodingRow.Statement (.ldMemVx x) := encRegByte_fixed_sub _ _ _
theorem EncodingRow.ldVxMem (x : RegIdx) : EncodingRow.Statement (.ldVxMem x) := encRegByte_fixed_sub _ _ _

end Sys2Proof.Laws
end

