-- ==== Sys2Proof/Safety.lean ====
section
/-! DEFINITION. The terms claims are made in: the invariant of reachable states, a safe run, what an
instruction leaves unchanged, and what the access table of 10_state.md R39 lets it write. -/

namespace Sys2Proof.Machine

/-- The invariant of every state that construction and the host's actions reach: the parameters are in their
ranges (R9), memory is canonical and nothing is written below `0x200` (R52), `I` is below `0x1000` (R26), `SP`
counts at most 16 entries (R30), no return address or `PC` exceeds the bounds of R28 (`pc0 + 2` of a fetched
instruction, `nnn + V0`), and a halt records a fatal error at the `PC` it happened at (R220, R221). -/
structure State.Inv (s : State) : Prop where
  config_wf : s.config.wellFormed = true
  mem_wf : Memory.wf s.config.font s.mem
  reserved_unwritten : ∀ c ∈ s.mem, 0x200 ≤ c.1
  i_bound : s.i.toNat < 0x1000
  sp_bound : s.sp.toNat ≤ 16
  stack_bound : ∀ (k : Nat) (h : k < 16), (s.stack[k]'h).toNat ≤ 0x1000
  pc_bound : s.pc.toNat ≤ 0x10FE
  halt_fatal : ∀ kind pc word, s.status = .halted kind pc word → fatalError kind = true
  halt_at_pc : ∀ kind pc word, s.status = .halted kind pc word → pc = s.pc
  halt_no_word : ∀ kind pc, s.status = .halted kind pc none → kind = .addressOutOfRange

/-- A run is safe while the machine is running: no fatal error has halted it (R36, D21). -/
def SafeFor (k : Nat) (s : State) : Prop := ∃ t, core.run k s = .next t ∧ t.status = .running

/-- Instructions executed one after another from a state, stopping at the first that does not go on. -/
def execAll : List Instr → State → Result
  | [], s => .next s
  | i :: is, s =>
    match exec i s with
    | .next t => execAll is t
    | stop => stop

/-- The parts of the machine an instruction may write, besides `PC` (the columns of R39), and the model's
count of random draws. -/
inductive Part where
  | regs
  | index
  | stack
  | delay
  | sound
  | framebuffer
  | memory
  | draws
  deriving DecidableEq, Repr

/-- A part reads the same in both states; memory is read byte by byte, at every address. -/
def Unchanged (s t : State) : Part → Prop
  | .regs => ∀ r, t.getV r = s.getV r
  | .index => t.i = s.i
  | .stack => t.sp = s.sp ∧ t.stack = s.stack
  | .delay => t.dt = s.dt
  | .sound => t.st = s.st
  | .framebuffer => t.fb = s.fb
  | .memory => ∀ a, t.readByte a = s.readByte a
  | .draws => t.draws = s.draws

/-- Everything but `PC` and the listed parts is unchanged: the other parts, the keypad, which the core never
writes (R35), `STATUS`, and the model's own parameters and host inputs. -/
def KeepsAllBut (parts : List Part) (s t : State) : Prop :=
  (∀ p, p ∉ parts → Unchanged s t p) ∧ t.keys = s.keys ∧ t.status = s.status ∧ t.config = s.config ∧
    t.schedule = s.schedule ∧ t.loadable = s.loadable

/-- Every register but those of `p` reads the same. -/
def KeepsRegsBut (p : RegIdx → Prop) (s t : State) : Prop := ∀ r, ¬ p r → t.getV r = s.getV r

/-- Every byte outside the `n` bytes from `a` reads the same. -/
def KeepsMemoryOutside (a n : Nat) (s t : State) : Prop :=
  ∀ b, b < a ∨ a + n ≤ b → t.readByte b = s.readByte b

/-- The outcome of raising an error in `s`: only `STATUS` changes, to a report of the error kind, the `PC` of
`s` and the raw word (R221). -/
def HaltsWith (s : State) (kind : ErrorKind) (word : Word) (r : Result) : Prop :=
  r = .next { s with status := .halted kind s.pc (some word) }

/-! ## The access table of R39: what each instruction writes -/

/-- Columns V and VF flag: whether an instruction may write `V[r]`. -/
def writesReg : Instr → RegIdx → Bool
  | .ldImm x _, r | .addImm x _, r | .ldReg x _, r | .or x _, r | .and x _, r | .xor x _, r | .rnd x _, r
  | .ldVxDt x, r | .ldVxK x, r => r == x
  | .addReg x _, r | .sub x _, r | .shr x _, r | .subn x _, r | .shl x _, r => r == x || r == VF
  | .drw _ _ _, r => r == VF
  | .ldVxMem x, r => decide (r.toNat ≤ x.toNat)
  | .cls, _ | .ret, _ | .jp _, _ | .call _, _ | .seImm _ _, _ | .sneImm _ _, _ | .seReg _ _, _ | .sneReg _ _, _
  | .ldI _, _ | .jpV0 _, _ | .skp _, _ | .sknp _, _ | .ldDtVx _, _ | .ldStVx _, _ | .addIVx _, _ | .ldFVx _, _
  | .ldBVx _, _ | .ldMemVx _, _ => false

/-- Column I, with `LS_ADVANCES_I` (R25). -/
def writesIndex (c : Config) : Instr → Bool
  | .ldI _ | .addIVx _ | .ldFVx _ => true
  | .ldMemVx _ | .ldVxMem _ => c.lsAdvancesI
  | .cls | .ret | .jp _ | .call _ | .seImm _ _ | .sneImm _ _ | .seReg _ _ | .ldImm _ _ | .addImm _ _ | .ldReg _ _
  | .or _ _ | .and _ _ | .xor _ _ | .addReg _ _ | .sub _ _ | .shr _ _ | .subn _ _ | .shl _ _ | .sneReg _ _
  | .jpV0 _ | .rnd _ _ | .drw _ _ _ | .skp _ | .sknp _ | .ldVxDt _ | .ldVxK _ | .ldDtVx _ | .ldStVx _
  | .ldBVx _ => false

/-- Column MEM: how many bytes an instruction stores, from `I` on (R60). -/
def storedCount : Instr → Nat
  | .ldBVx _ => 3
  | .ldMemVx x => x.toNat + 1
  | .cls | .ret | .jp _ | .call _ | .seImm _ _ | .sneImm _ _ | .seReg _ _ | .ldImm _ _ | .addImm _ _ | .ldReg _ _
  | .or _ _ | .and _ _ | .xor _ _ | .addReg _ _ | .sub _ _ | .shr _ _ | .subn _ _ | .shl _ _ | .sneReg _ _
  | .ldI _ | .jpV0 _ | .rnd _ _ | .drw _ _ _ | .skp _ | .sknp _ | .ldVxDt _ | .ldVxK _ | .ldDtVx _ | .ldStVx _
  | .addIVx _ | .ldFVx _ | .ldVxMem _ => 0

/-- Which instructions write a part, with `LS_ADVANCES_I` for `I`: the columns of R39, and the model's count of
draws. -/
def writesPart (c : Config) : Part → Instr → Prop
  | .regs, i => ∃ r, writesReg i r = true
  | .index, i => writesIndex c i = true
  | .stack, i => i = .ret ∨ ∃ nnn, i = .call nnn
  | .delay, i => ∃ x, i = .ldDtVx x
  | .sound, i => ∃ x, i = .ldStVx x
  | .framebuffer, i => i = .cls ∨ ∃ x y n, i = .drw x y n
  | .memory, i => storedCount i ≠ 0
  | .draws, i => ∃ x kk, i = .rnd x kk

/-- The errors an instruction can raise itself (R222). -/
def ownError : Instr → ErrorKind → Prop
  | .ret, kind => kind = .stackUnderflow
  | .call _, kind => kind = .stackOverflow
  | .drw _ _ _, kind | .ldBVx _, kind | .ldMemVx _, kind | .ldVxMem _, kind => kind = .addressOutOfRange
  | .cls, _ | .jp _, _ | .seImm _ _, _ | .sneImm _ _, _ | .seReg _ _, _ | .ldImm _ _, _ | .addImm _ _, _
  | .ldReg _ _, _ | .or _ _, _ | .and _ _, _ | .xor _ _, _ | .addReg _ _, _ | .sub _ _, _ | .shr _ _, _
  | .subn _ _, _ | .shl _ _, _ | .sneReg _ _, _ | .ldI _, _ | .jpV0 _, _ | .rnd _ _, _ | .skp _, _ | .sknp _, _
  | .ldVxDt _, _ | .ldVxK _, _ | .ldDtVx _, _ | .ldStVx _, _ | .addIVx _, _ | .ldFVx _, _ => False

/-- Bit `b` from the left of sprite row `j` at `I` is 1 and falls on pixel `(px, py)` (R191, R193). -/
def SpriteCovers (s : State) (x y : RegIdx) (n : Nibble) (px py : Nat) : Prop :=
  ∃ j b, j < n.toNat ∧ b < 8 ∧ ((s.readByte (s.i.toNat + j)).toNat / 2 ^ (7 - b)) % 2 = 1 ∧
    ((s.getV x).toNat + b) % 64 = px ∧ ((s.getV y).toNat + j) % 32 = py

end Sys2Proof.Machine
end

