-- ==== Sys2Proof/Laws/State.lean ====
section
/-! SUPPORT. One lemma per field per update of the state, true by rfl, and the register file's read-after-write
laws, so that no later proof unfolds a record update. -/

namespace Sys2Proof.Machine

@[simp] theorem State.setV_mem (s : State) (x : RegIdx) (b : Byte) : (s.setV x b).mem = s.mem := rfl
@[simp] theorem State.setV_v (s : State) (x : RegIdx) (b : Byte) : (s.setV x b).v = s.v.set x.toNat b x.isLt := rfl
@[simp] theorem State.setV_i (s : State) (x : RegIdx) (b : Byte) : (s.setV x b).i = s.i := rfl
@[simp] theorem State.setV_pc (s : State) (x : RegIdx) (b : Byte) : (s.setV x b).pc = s.pc := rfl
@[simp] theorem State.setV_sp (s : State) (x : RegIdx) (b : Byte) : (s.setV x b).sp = s.sp := rfl
@[simp] theorem State.setV_stack (s : State) (x : RegIdx) (b : Byte) : (s.setV x b).stack = s.stack := rfl
@[simp] theorem State.setV_dt (s : State) (x : RegIdx) (b : Byte) : (s.setV x b).dt = s.dt := rfl
@[simp] theorem State.setV_st (s : State) (x : RegIdx) (b : Byte) : (s.setV x b).st = s.st := rfl
@[simp] theorem State.setV_fb (s : State) (x : RegIdx) (b : Byte) : (s.setV x b).fb = s.fb := rfl
@[simp] theorem State.setV_keys (s : State) (x : RegIdx) (b : Byte) : (s.setV x b).keys = s.keys := rfl
@[simp] theorem State.setV_status (s : State) (x : RegIdx) (b : Byte) : (s.setV x b).status = s.status := rfl
@[simp] theorem State.setV_config (s : State) (x : RegIdx) (b : Byte) : (s.setV x b).config = s.config := rfl
@[simp] theorem State.setV_draws (s : State) (x : RegIdx) (b : Byte) : (s.setV x b).draws = s.draws := rfl
@[simp] theorem State.setV_schedule (s : State) (x : RegIdx) (b : Byte) : (s.setV x b).schedule = s.schedule := rfl
@[simp] theorem State.setV_loadable (s : State) (x : RegIdx) (b : Byte) : (s.setV x b).loadable = s.loadable := rfl

@[simp] theorem State.setBlock_mem (s : State) (bs : List Byte) : (s.setBlock bs).mem = s.mem := rfl
@[simp] theorem State.setBlock_v (s : State) (bs : List Byte) : (s.setBlock bs).v = writeRegs s.v 0 bs := rfl
@[simp] theorem State.setBlock_i (s : State) (bs : List Byte) : (s.setBlock bs).i = s.i := rfl
@[simp] theorem State.setBlock_pc (s : State) (bs : List Byte) : (s.setBlock bs).pc = s.pc := rfl
@[simp] theorem State.setBlock_sp (s : State) (bs : List Byte) : (s.setBlock bs).sp = s.sp := rfl
@[simp] theorem State.setBlock_stack (s : State) (bs : List Byte) : (s.setBlock bs).stack = s.stack := rfl
@[simp] theorem State.setBlock_dt (s : State) (bs : List Byte) : (s.setBlock bs).dt = s.dt := rfl
@[simp] theorem State.setBlock_st (s : State) (bs : List Byte) : (s.setBlock bs).st = s.st := rfl
@[simp] theorem State.setBlock_fb (s : State) (bs : List Byte) : (s.setBlock bs).fb = s.fb := rfl
@[simp] theorem State.setBlock_keys (s : State) (bs : List Byte) : (s.setBlock bs).keys = s.keys := rfl
@[simp] theorem State.setBlock_status (s : State) (bs : List Byte) : (s.setBlock bs).status = s.status := rfl
@[simp] theorem State.setBlock_config (s : State) (bs : List Byte) : (s.setBlock bs).config = s.config := rfl
@[simp] theorem State.setBlock_draws (s : State) (bs : List Byte) : (s.setBlock bs).draws = s.draws := rfl
@[simp] theorem State.setBlock_schedule (s : State) (bs : List Byte) : (s.setBlock bs).schedule = s.schedule := rfl
@[simp] theorem State.setBlock_loadable (s : State) (bs : List Byte) : (s.setBlock bs).loadable = s.loadable := rfl

@[simp] theorem State.setI_mem (s : State) (w : Word) : (s.setI w).mem = s.mem := rfl
@[simp] theorem State.setI_v (s : State) (w : Word) : (s.setI w).v = s.v := rfl
@[simp] theorem State.setI_i (s : State) (w : Word) : (s.setI w).i = w := rfl
@[simp] theorem State.setI_pc (s : State) (w : Word) : (s.setI w).pc = s.pc := rfl
@[simp] theorem State.setI_sp (s : State) (w : Word) : (s.setI w).sp = s.sp := rfl
@[simp] theorem State.setI_stack (s : State) (w : Word) : (s.setI w).stack = s.stack := rfl
@[simp] theorem State.setI_dt (s : State) (w : Word) : (s.setI w).dt = s.dt := rfl
@[simp] theorem State.setI_st (s : State) (w : Word) : (s.setI w).st = s.st := rfl
@[simp] theorem State.setI_fb (s : State) (w : Word) : (s.setI w).fb = s.fb := rfl
@[simp] theorem State.setI_keys (s : State) (w : Word) : (s.setI w).keys = s.keys := rfl
@[simp] theorem State.setI_status (s : State) (w : Word) : (s.setI w).status = s.status := rfl
@[simp] theorem State.setI_config (s : State) (w : Word) : (s.setI w).config = s.config := rfl
@[simp] theorem State.setI_draws (s : State) (w : Word) : (s.setI w).draws = s.draws := rfl
@[simp] theorem State.setI_schedule (s : State) (w : Word) : (s.setI w).schedule = s.schedule := rfl
@[simp] theorem State.setI_loadable (s : State) (w : Word) : (s.setI w).loadable = s.loadable := rfl

@[simp] theorem State.setDt_mem (s : State) (b : Byte) : (s.setDt b).mem = s.mem := rfl
@[simp] theorem State.setDt_v (s : State) (b : Byte) : (s.setDt b).v = s.v := rfl
@[simp] theorem State.setDt_i (s : State) (b : Byte) : (s.setDt b).i = s.i := rfl
@[simp] theorem State.setDt_pc (s : State) (b : Byte) : (s.setDt b).pc = s.pc := rfl
@[simp] theorem State.setDt_sp (s : State) (b : Byte) : (s.setDt b).sp = s.sp := rfl
@[simp] theorem State.setDt_stack (s : State) (b : Byte) : (s.setDt b).stack = s.stack := rfl
@[simp] theorem State.setDt_dt (s : State) (b : Byte) : (s.setDt b).dt = b := rfl
@[simp] theorem State.setDt_st (s : State) (b : Byte) : (s.setDt b).st = s.st := rfl
@[simp] theorem State.setDt_fb (s : State) (b : Byte) : (s.setDt b).fb = s.fb := rfl
@[simp] theorem State.setDt_keys (s : State) (b : Byte) : (s.setDt b).keys = s.keys := rfl
@[simp] theorem State.setDt_status (s : State) (b : Byte) : (s.setDt b).status = s.status := rfl
@[simp] theorem State.setDt_config (s : State) (b : Byte) : (s.setDt b).config = s.config := rfl
@[simp] theorem State.setDt_draws (s : State) (b : Byte) : (s.setDt b).draws = s.draws := rfl
@[simp] theorem State.setDt_schedule (s : State) (b : Byte) : (s.setDt b).schedule = s.schedule := rfl
@[simp] theorem State.setDt_loadable (s : State) (b : Byte) : (s.setDt b).loadable = s.loadable := rfl

@[simp] theorem State.setSt_mem (s : State) (b : Byte) : (s.setSt b).mem = s.mem := rfl
@[simp] theorem State.setSt_v (s : State) (b : Byte) : (s.setSt b).v = s.v := rfl
@[simp] theorem State.setSt_i (s : State) (b : Byte) : (s.setSt b).i = s.i := rfl
@[simp] theorem State.setSt_pc (s : State) (b : Byte) : (s.setSt b).pc = s.pc := rfl
@[simp] theorem State.setSt_sp (s : State) (b : Byte) : (s.setSt b).sp = s.sp := rfl
@[simp] theorem State.setSt_stack (s : State) (b : Byte) : (s.setSt b).stack = s.stack := rfl
@[simp] theorem State.setSt_dt (s : State) (b : Byte) : (s.setSt b).dt = s.dt := rfl
@[simp] theorem State.setSt_st (s : State) (b : Byte) : (s.setSt b).st = b := rfl
@[simp] theorem State.setSt_fb (s : State) (b : Byte) : (s.setSt b).fb = s.fb := rfl
@[simp] theorem State.setSt_keys (s : State) (b : Byte) : (s.setSt b).keys = s.keys := rfl
@[simp] theorem State.setSt_status (s : State) (b : Byte) : (s.setSt b).status = s.status := rfl
@[simp] theorem State.setSt_config (s : State) (b : Byte) : (s.setSt b).config = s.config := rfl
@[simp] theorem State.setSt_draws (s : State) (b : Byte) : (s.setSt b).draws = s.draws := rfl
@[simp] theorem State.setSt_schedule (s : State) (b : Byte) : (s.setSt b).schedule = s.schedule := rfl
@[simp] theorem State.setSt_loadable (s : State) (b : Byte) : (s.setSt b).loadable = s.loadable := rfl

@[simp] theorem State.setFb_mem (s : State) (f : Framebuffer) : (s.setFb f).mem = s.mem := rfl
@[simp] theorem State.setFb_v (s : State) (f : Framebuffer) : (s.setFb f).v = s.v := rfl
@[simp] theorem State.setFb_i (s : State) (f : Framebuffer) : (s.setFb f).i = s.i := rfl
@[simp] theorem State.setFb_pc (s : State) (f : Framebuffer) : (s.setFb f).pc = s.pc := rfl
@[simp] theorem State.setFb_sp (s : State) (f : Framebuffer) : (s.setFb f).sp = s.sp := rfl
@[simp] theorem State.setFb_stack (s : State) (f : Framebuffer) : (s.setFb f).stack = s.stack := rfl
@[simp] theorem State.setFb_dt (s : State) (f : Framebuffer) : (s.setFb f).dt = s.dt := rfl
@[simp] theorem State.setFb_st (s : State) (f : Framebuffer) : (s.setFb f).st = s.st := rfl
@[simp] theorem State.setFb_fb (s : State) (f : Framebuffer) : (s.setFb f).fb = f := rfl
@[simp] theorem State.setFb_keys (s : State) (f : Framebuffer) : (s.setFb f).keys = s.keys := rfl
@[simp] theorem State.setFb_status (s : State) (f : Framebuffer) : (s.setFb f).status = s.status := rfl
@[simp] theorem State.setFb_config (s : State) (f : Framebuffer) : (s.setFb f).config = s.config := rfl
@[simp] theorem State.setFb_draws (s : State) (f : Framebuffer) : (s.setFb f).draws = s.draws := rfl
@[simp] theorem State.setFb_schedule (s : State) (f : Framebuffer) : (s.setFb f).schedule = s.schedule := rfl
@[simp] theorem State.setFb_loadable (s : State) (f : Framebuffer) : (s.setFb f).loadable = s.loadable := rfl

@[simp] theorem State.setPc_mem (s : State) (w : Word) : (s.setPc w).mem = s.mem := rfl
@[simp] theorem State.setPc_v (s : State) (w : Word) : (s.setPc w).v = s.v := rfl
@[simp] theorem State.setPc_i (s : State) (w : Word) : (s.setPc w).i = s.i := rfl
@[simp] theorem State.setPc_pc (s : State) (w : Word) : (s.setPc w).pc = w := rfl
@[simp] theorem State.setPc_sp (s : State) (w : Word) : (s.setPc w).sp = s.sp := rfl
@[simp] theorem State.setPc_stack (s : State) (w : Word) : (s.setPc w).stack = s.stack := rfl
@[simp] theorem State.setPc_dt (s : State) (w : Word) : (s.setPc w).dt = s.dt := rfl
@[simp] theorem State.setPc_st (s : State) (w : Word) : (s.setPc w).st = s.st := rfl
@[simp] theorem State.setPc_fb (s : State) (w : Word) : (s.setPc w).fb = s.fb := rfl
@[simp] theorem State.setPc_keys (s : State) (w : Word) : (s.setPc w).keys = s.keys := rfl
@[simp] theorem State.setPc_status (s : State) (w : Word) : (s.setPc w).status = s.status := rfl
@[simp] theorem State.setPc_config (s : State) (w : Word) : (s.setPc w).config = s.config := rfl
@[simp] theorem State.setPc_draws (s : State) (w : Word) : (s.setPc w).draws = s.draws := rfl
@[simp] theorem State.setPc_schedule (s : State) (w : Word) : (s.setPc w).schedule = s.schedule := rfl
@[simp] theorem State.setPc_loadable (s : State) (w : Word) : (s.setPc w).loadable = s.loadable := rfl

@[simp] theorem State.advance_mem (s : State) : (s.advance).mem = s.mem := rfl
@[simp] theorem State.advance_v (s : State) : (s.advance).v = s.v := rfl
@[simp] theorem State.advance_i (s : State) : (s.advance).i = s.i := rfl
@[simp] theorem State.advance_pc (s : State) : (s.advance).pc = s.pc + 2#16 := rfl
@[simp] theorem State.advance_sp (s : State) : (s.advance).sp = s.sp := rfl
@[simp] theorem State.advance_stack (s : State) : (s.advance).stack = s.stack := rfl
@[simp] theorem State.advance_dt (s : State) : (s.advance).dt = s.dt := rfl
@[simp] theorem State.advance_st (s : State) : (s.advance).st = s.st := rfl
@[simp] theorem State.advance_fb (s : State) : (s.advance).fb = s.fb := rfl
@[simp] theorem State.advance_keys (s : State) : (s.advance).keys = s.keys := rfl
@[simp] theorem State.advance_status (s : State) : (s.advance).status = s.status := rfl
@[simp] theorem State.advance_config (s : State) : (s.advance).config = s.config := rfl
@[simp] theorem State.advance_draws (s : State) : (s.advance).draws = s.draws := rfl
@[simp] theorem State.advance_schedule (s : State) : (s.advance).schedule = s.schedule := rfl
@[simp] theorem State.advance_loadable (s : State) : (s.advance).loadable = s.loadable := rfl

@[simp] theorem State.writeBytes_mem (s : State) (a : Nat) (bs : List Byte) : (s.writeBytes a bs).mem = Memory.writeList s.config.font s.mem a bs := rfl
@[simp] theorem State.writeBytes_v (s : State) (a : Nat) (bs : List Byte) : (s.writeBytes a bs).v = s.v := rfl
@[simp] theorem State.writeBytes_i (s : State) (a : Nat) (bs : List Byte) : (s.writeBytes a bs).i = s.i := rfl
@[simp] theorem State.writeBytes_pc (s : State) (a : Nat) (bs : List Byte) : (s.writeBytes a bs).pc = s.pc := rfl
@[simp] theorem State.writeBytes_sp (s : State) (a : Nat) (bs : List Byte) : (s.writeBytes a bs).sp = s.sp := rfl
@[simp] theorem State.writeBytes_stack (s : State) (a : Nat) (bs : List Byte) : (s.writeBytes a bs).stack = s.stack := rfl
@[simp] theorem State.writeBytes_dt (s : State) (a : Nat) (bs : List Byte) : (s.writeBytes a bs).dt = s.dt := rfl
@[simp] theorem State.writeBytes_st (s : State) (a : Nat) (bs : List Byte) : (s.writeBytes a bs).st = s.st := rfl
@[simp] theorem State.writeBytes_fb (s : State) (a : Nat) (bs : List Byte) : (s.writeBytes a bs).fb = s.fb := rfl
@[simp] theorem State.writeBytes_keys (s : State) (a : Nat) (bs : List Byte) : (s.writeBytes a bs).keys = s.keys := rfl
@[simp] theorem State.writeBytes_status (s : State) (a : Nat) (bs : List Byte) : (s.writeBytes a bs).status = s.status := rfl
@[simp] theorem State.writeBytes_config (s : State) (a : Nat) (bs : List Byte) : (s.writeBytes a bs).config = s.config := rfl
@[simp] theorem State.writeBytes_draws (s : State) (a : Nat) (bs : List Byte) : (s.writeBytes a bs).draws = s.draws := rfl
@[simp] theorem State.writeBytes_schedule (s : State) (a : Nat) (bs : List Byte) : (s.writeBytes a bs).schedule = s.schedule := rfl
@[simp] theorem State.writeBytes_loadable (s : State) (a : Nat) (bs : List Byte) : (s.writeBytes a bs).loadable = s.loadable := rfl

@[simp] theorem State.tickTimers_mem (s : State) : (s.tickTimers).mem = s.mem := rfl
@[simp] theorem State.tickTimers_v (s : State) : (s.tickTimers).v = s.v := rfl
@[simp] theorem State.tickTimers_i (s : State) : (s.tickTimers).i = s.i := rfl
@[simp] theorem State.tickTimers_pc (s : State) : (s.tickTimers).pc = s.pc := rfl
@[simp] theorem State.tickTimers_sp (s : State) : (s.tickTimers).sp = s.sp := rfl
@[simp] theorem State.tickTimers_stack (s : State) : (s.tickTimers).stack = s.stack := rfl
@[simp] theorem State.tickTimers_dt (s : State) : (s.tickTimers).dt = countDown s.dt := rfl
@[simp] theorem State.tickTimers_st (s : State) : (s.tickTimers).st = countDown s.st := rfl
@[simp] theorem State.tickTimers_fb (s : State) : (s.tickTimers).fb = s.fb := rfl
@[simp] theorem State.tickTimers_keys (s : State) : (s.tickTimers).keys = s.keys := rfl
@[simp] theorem State.tickTimers_status (s : State) : (s.tickTimers).status = s.status := rfl
@[simp] theorem State.tickTimers_config (s : State) : (s.tickTimers).config = s.config := rfl
@[simp] theorem State.tickTimers_draws (s : State) : (s.tickTimers).draws = s.draws := rfl
@[simp] theorem State.tickTimers_schedule (s : State) : (s.tickTimers).schedule = s.schedule := rfl
@[simp] theorem State.tickTimers_loadable (s : State) : (s.tickTimers).loadable = s.loadable := rfl

@[simp] theorem State.setKeys_mem (s : State) (k : Keypad) : (s.setKeys k).mem = s.mem := rfl
@[simp] theorem State.setKeys_v (s : State) (k : Keypad) : (s.setKeys k).v = s.v := rfl
@[simp] theorem State.setKeys_i (s : State) (k : Keypad) : (s.setKeys k).i = s.i := rfl
@[simp] theorem State.setKeys_pc (s : State) (k : Keypad) : (s.setKeys k).pc = s.pc := rfl
@[simp] theorem State.setKeys_sp (s : State) (k : Keypad) : (s.setKeys k).sp = s.sp := rfl
@[simp] theorem State.setKeys_stack (s : State) (k : Keypad) : (s.setKeys k).stack = s.stack := rfl
@[simp] theorem State.setKeys_dt (s : State) (k : Keypad) : (s.setKeys k).dt = s.dt := rfl
@[simp] theorem State.setKeys_st (s : State) (k : Keypad) : (s.setKeys k).st = s.st := rfl
@[simp] theorem State.setKeys_fb (s : State) (k : Keypad) : (s.setKeys k).fb = s.fb := rfl
@[simp] theorem State.setKeys_keys (s : State) (k : Keypad) : (s.setKeys k).keys = k := rfl
@[simp] theorem State.setKeys_status (s : State) (k : Keypad) : (s.setKeys k).status = s.status := rfl
@[simp] theorem State.setKeys_config (s : State) (k : Keypad) : (s.setKeys k).config = s.config := rfl
@[simp] theorem State.setKeys_draws (s : State) (k : Keypad) : (s.setKeys k).draws = s.draws := rfl
@[simp] theorem State.setKeys_schedule (s : State) (k : Keypad) : (s.setKeys k).schedule = s.schedule := rfl
@[simp] theorem State.setKeys_loadable (s : State) (k : Keypad) : (s.setKeys k).loadable = s.loadable := rfl

@[simp] theorem State.beginCycle_mem (s : State) : (s.beginCycle).mem = s.mem := rfl
@[simp] theorem State.beginCycle_v (s : State) : (s.beginCycle).v = s.v := rfl
@[simp] theorem State.beginCycle_i (s : State) : (s.beginCycle).i = s.i := rfl
@[simp] theorem State.beginCycle_pc (s : State) : (s.beginCycle).pc = s.pc := rfl
@[simp] theorem State.beginCycle_sp (s : State) : (s.beginCycle).sp = s.sp := rfl
@[simp] theorem State.beginCycle_stack (s : State) : (s.beginCycle).stack = s.stack := rfl
@[simp] theorem State.beginCycle_dt (s : State) : (s.beginCycle).dt = s.dt := rfl
@[simp] theorem State.beginCycle_st (s : State) : (s.beginCycle).st = s.st := rfl
@[simp] theorem State.beginCycle_fb (s : State) : (s.beginCycle).fb = s.fb := rfl
@[simp] theorem State.beginCycle_keys (s : State) : (s.beginCycle).keys = s.keys := rfl
@[simp] theorem State.beginCycle_status (s : State) : (s.beginCycle).status = s.status := rfl
@[simp] theorem State.beginCycle_config (s : State) : (s.beginCycle).config = s.config := rfl
@[simp] theorem State.beginCycle_draws (s : State) : (s.beginCycle).draws = s.draws := rfl
@[simp] theorem State.beginCycle_schedule (s : State) : (s.beginCycle).schedule = s.schedule := rfl
@[simp] theorem State.beginCycle_loadable (s : State) : (s.beginCycle).loadable = false := rfl

@[simp] theorem State.takeAction_mem (s : State) : (s.takeAction).mem = s.mem := rfl
@[simp] theorem State.takeAction_v (s : State) : (s.takeAction).v = s.v := rfl
@[simp] theorem State.takeAction_i (s : State) : (s.takeAction).i = s.i := rfl
@[simp] theorem State.takeAction_pc (s : State) : (s.takeAction).pc = s.pc := rfl
@[simp] theorem State.takeAction_sp (s : State) : (s.takeAction).sp = s.sp := rfl
@[simp] theorem State.takeAction_stack (s : State) : (s.takeAction).stack = s.stack := rfl
@[simp] theorem State.takeAction_dt (s : State) : (s.takeAction).dt = s.dt := rfl
@[simp] theorem State.takeAction_st (s : State) : (s.takeAction).st = s.st := rfl
@[simp] theorem State.takeAction_fb (s : State) : (s.takeAction).fb = s.fb := rfl
@[simp] theorem State.takeAction_keys (s : State) : (s.takeAction).keys = s.keys := rfl
@[simp] theorem State.takeAction_status (s : State) : (s.takeAction).status = s.status := rfl
@[simp] theorem State.takeAction_config (s : State) : (s.takeAction).config = s.config := rfl
@[simp] theorem State.takeAction_draws (s : State) : (s.takeAction).draws = s.draws := rfl
@[simp] theorem State.takeAction_schedule (s : State) : (s.takeAction).schedule = s.schedule.tail := rfl
@[simp] theorem State.takeAction_loadable (s : State) : (s.takeAction).loadable = s.loadable := rfl

@[simp] theorem State.skipIf_mem (s : State) (c : Bool) : (s.skipIf c).mem = s.mem := by cases c <;> rfl
@[simp] theorem State.skipIf_v (s : State) (c : Bool) : (s.skipIf c).v = s.v := by cases c <;> rfl
@[simp] theorem State.skipIf_i (s : State) (c : Bool) : (s.skipIf c).i = s.i := by cases c <;> rfl
@[simp] theorem State.skipIf_sp (s : State) (c : Bool) : (s.skipIf c).sp = s.sp := by cases c <;> rfl
@[simp] theorem State.skipIf_stack (s : State) (c : Bool) : (s.skipIf c).stack = s.stack := by cases c <;> rfl
@[simp] theorem State.skipIf_dt (s : State) (c : Bool) : (s.skipIf c).dt = s.dt := by cases c <;> rfl
@[simp] theorem State.skipIf_st (s : State) (c : Bool) : (s.skipIf c).st = s.st := by cases c <;> rfl
@[simp] theorem State.skipIf_fb (s : State) (c : Bool) : (s.skipIf c).fb = s.fb := by cases c <;> rfl
@[simp] theorem State.skipIf_keys (s : State) (c : Bool) : (s.skipIf c).keys = s.keys := by cases c <;> rfl
@[simp] theorem State.skipIf_status (s : State) (c : Bool) : (s.skipIf c).status = s.status := by cases c <;> rfl
@[simp] theorem State.skipIf_config (s : State) (c : Bool) : (s.skipIf c).config = s.config := by cases c <;> rfl
@[simp] theorem State.skipIf_draws (s : State) (c : Bool) : (s.skipIf c).draws = s.draws := by cases c <;> rfl
@[simp] theorem State.skipIf_schedule (s : State) (c : Bool) : (s.skipIf c).schedule = s.schedule := by cases c <;> rfl
@[simp] theorem State.skipIf_loadable (s : State) (c : Bool) : (s.skipIf c).loadable = s.loadable := by cases c <;> rfl
@[simp] theorem State.skipIf_pc (s : State) (c : Bool) :
    (s.skipIf c).pc = if c then s.pc + 4#16 else s.pc + 2#16 := by cases c <;> rfl

/-! ## Registers -/

@[simp] theorem State.getV_setV_same (s : State) (x : RegIdx) (b : Byte) : (s.setV x b).getV x = b := by
  simp [State.getV]

theorem State.getV_setV_ne (s : State) {x r : RegIdx} (b : Byte) (h : r ≠ x) : (s.setV x b).getV r = s.getV r := by
  have hx : x.toNat ≠ r.toNat := fun e => h (BitVec.eq_of_toNat_eq e.symm)
  simp [State.getV, Vector.getElem_set_ne, hx]

theorem State.getV_setV (s : State) (x r : RegIdx) (b : Byte) :
    (s.setV x b).getV r = if r = x then b else s.getV r := by
  by_cases h : r = x
  · subst h; simp
  · rw [if_neg h, State.getV_setV_ne s b h]

@[simp] theorem State.getV_setI (s : State) (w : Word) (r : RegIdx) : (s.setI w).getV r = s.getV r := rfl
@[simp] theorem State.getV_setDt (s : State) (b : Byte) (r : RegIdx) : (s.setDt b).getV r = s.getV r := rfl
@[simp] theorem State.getV_setSt (s : State) (b : Byte) (r : RegIdx) : (s.setSt b).getV r = s.getV r := rfl
@[simp] theorem State.getV_setFb (s : State) (f : Framebuffer) (r : RegIdx) : (s.setFb f).getV r = s.getV r := rfl
@[simp] theorem State.getV_setPc (s : State) (w : Word) (r : RegIdx) : (s.setPc w).getV r = s.getV r := rfl
@[simp] theorem State.getV_advance (s : State) (r : RegIdx) : (s.advance).getV r = s.getV r := rfl
@[simp] theorem State.getV_writeBytes (s : State) (a : Nat) (bs : List Byte) (r : RegIdx) : (s.writeBytes a bs).getV r = s.getV r := rfl
@[simp] theorem State.getV_tickTimers (s : State) (r : RegIdx) : (s.tickTimers).getV r = s.getV r := rfl
@[simp] theorem State.getV_setKeys (s : State) (k : Keypad) (r : RegIdx) : (s.setKeys k).getV r = s.getV r := rfl
@[simp] theorem State.getV_beginCycle (s : State) (r : RegIdx) : (s.beginCycle).getV r = s.getV r := rfl
@[simp] theorem State.getV_takeAction (s : State) (r : RegIdx) : (s.takeAction).getV r = s.getV r := rfl
@[simp] theorem State.getV_skipIf (s : State) (c : Bool) (r : RegIdx) : (s.skipIf c).getV r = s.getV r := by
  cases c <;> rfl

/-- The result stays unless the destination is `VF`, which ends as the flag (R108). -/
theorem State.getV_setResultAndFlag (s : State) (x r : RegIdx) (result flag : Byte) :
    (s.setResultAndFlag x result flag).getV r =
      if r = VF then flag else if r = x then result else s.getV r := by
  rw [State.setResultAndFlag, State.getV_setV, State.getV_setV]

@[simp] theorem State.setResultAndFlag_mem (s : State) (x : RegIdx) (r c : Byte) : (s.setResultAndFlag x r c).mem = s.mem := rfl
@[simp] theorem State.setResultAndFlag_i (s : State) (x : RegIdx) (r c : Byte) : (s.setResultAndFlag x r c).i = s.i := rfl
@[simp] theorem State.setResultAndFlag_pc (s : State) (x : RegIdx) (r c : Byte) : (s.setResultAndFlag x r c).pc = s.pc := rfl
@[simp] theorem State.setResultAndFlag_sp (s : State) (x : RegIdx) (r c : Byte) : (s.setResultAndFlag x r c).sp = s.sp := rfl
@[simp] theorem State.setResultAndFlag_stack (s : State) (x : RegIdx) (r c : Byte) : (s.setResultAndFlag x r c).stack = s.stack := rfl
@[simp] theorem State.setResultAndFlag_dt (s : State) (x : RegIdx) (r c : Byte) : (s.setResultAndFlag x r c).dt = s.dt := rfl
@[simp] theorem State.setResultAndFlag_st (s : State) (x : RegIdx) (r c : Byte) : (s.setResultAndFlag x r c).st = s.st := rfl
@[simp] theorem State.setResultAndFlag_fb (s : State) (x : RegIdx) (r c : Byte) : (s.setResultAndFlag x r c).fb = s.fb := rfl
@[simp] theorem State.setResultAndFlag_keys (s : State) (x : RegIdx) (r c : Byte) : (s.setResultAndFlag x r c).keys = s.keys := rfl
@[simp] theorem State.setResultAndFlag_status (s : State) (x : RegIdx) (r c : Byte) : (s.setResultAndFlag x r c).status = s.status := rfl
@[simp] theorem State.setResultAndFlag_config (s : State) (x : RegIdx) (r c : Byte) : (s.setResultAndFlag x r c).config = s.config := rfl
@[simp] theorem State.setResultAndFlag_draws (s : State) (x : RegIdx) (r c : Byte) : (s.setResultAndFlag x r c).draws = s.draws := rfl
@[simp] theorem State.setResultAndFlag_schedule (s : State) (x : RegIdx) (r c : Byte) : (s.setResultAndFlag x r c).schedule = s.schedule := rfl
@[simp] theorem State.setResultAndFlag_loadable (s : State) (x : RegIdx) (r c : Byte) : (s.setResultAndFlag x r c).loadable = s.loadable := rfl

theorem writeRegs_getElem (v : Vector Byte 16) (j : Nat) (bs : List Byte) (r : Nat) (h : r < 16) :
    (writeRegs v j bs)[r]'h = if hb : j ≤ r ∧ r < j + bs.length then bs[r - j]'(by omega) else v[r]'h := by
  induction bs generalizing v j with
  | nil => simp [writeRegs]
  | cons b bs ih =>
    rw [writeRegs, ih]
    by_cases h1 : j + 1 ≤ r ∧ r < j + 1 + bs.length
    · have h2 : j ≤ r ∧ r < j + (b :: bs).length := by simp; omega
      rw [dif_pos h1, dif_pos h2]
      have : r - j = (r - (j + 1)) + 1 := by omega
      simp [this]
    · rw [dif_neg h1]
      by_cases h3 : r = j
      · subst h3; simp
      · have h2 : ¬ (j ≤ r ∧ r < j + (b :: bs).length) := by simp; omega
        rw [dif_neg h2, Vector.getElem_setIfInBounds, if_neg (by omega)]

/-- A block load writes exactly the registers below the length of the block (R176). -/
theorem State.getV_setBlock (s : State) (bs : List Byte) (r : RegIdx) :
    (s.setBlock bs).getV r = if h : r.toNat < bs.length then bs[r.toNat]'h else s.getV r := by
  rw [State.getV]
  simp only [State.setBlock_v]
  rw [writeRegs_getElem]
  simp [State.getV]

/-! ## Bytes of memory, seen through updates that do not store -/

@[simp] theorem State.readByte_setV (s : State) (x : RegIdx) (b : Byte) (a : Nat) : (s.setV x b).readByte a = s.readByte a := rfl
@[simp] theorem State.readByte_setBlock (s : State) (bs : List Byte) (a : Nat) : (s.setBlock bs).readByte a = s.readByte a := rfl
@[simp] theorem State.readByte_setI (s : State) (w : Word) (a : Nat) : (s.setI w).readByte a = s.readByte a := rfl
@[simp] theorem State.readByte_setDt (s : State) (b : Byte) (a : Nat) : (s.setDt b).readByte a = s.readByte a := rfl
@[simp] theorem State.readByte_setSt (s : State) (b : Byte) (a : Nat) : (s.setSt b).readByte a = s.readByte a := rfl
@[simp] theorem State.readByte_setFb (s : State) (f : Framebuffer) (a : Nat) : (s.setFb f).readByte a = s.readByte a := rfl
@[simp] theorem State.readByte_setPc (s : State) (w : Word) (a : Nat) : (s.setPc w).readByte a = s.readByte a := rfl
@[simp] theorem State.readByte_advance (s : State) (a : Nat) : (s.advance).readByte a = s.readByte a := rfl
@[simp] theorem State.readByte_tickTimers (s : State) (a : Nat) : (s.tickTimers).readByte a = s.readByte a := rfl
@[simp] theorem State.readByte_setKeys (s : State) (k : Keypad) (a : Nat) : (s.setKeys k).readByte a = s.readByte a := rfl
@[simp] theorem State.readByte_beginCycle (s : State) (a : Nat) : (s.beginCycle).readByte a = s.readByte a := rfl
@[simp] theorem State.readByte_takeAction (s : State) (a : Nat) : (s.takeAction).readByte a = s.readByte a := rfl
@[simp] theorem State.readByte_skipIf (s : State) (c : Bool) (a : Nat) : (s.skipIf c).readByte a = s.readByte a := by
  cases c <;> rfl
@[simp] theorem State.readByte_setResultAndFlag (s : State) (x : RegIdx) (r c : Byte) (a : Nat) :
    (s.setResultAndFlag x r c).readByte a = s.readByte a := rfl

end Sys2Proof.Machine
end

