-- ==== Sys2Proof/Laws/Memory.lean ====
section
/-! SUPPORT. Read after write, and that every memory operation keeps the canonical form. -/

namespace Sys2Proof.Machine

/-! ## Finding a listed byte -/

@[simp] theorem Memory.find_insert_same (m : Memory) (a : Nat) (b : Byte) : (m.insert a b).find a = some b := by
  induction m with
  | nil => simp [Memory.insert, Memory.find]
  | cons c m ih =>
    obtain ⟨c, u⟩ := c
    simp only [Memory.insert]
    split
    · simp [Memory.find]
    · split
      · simp [Memory.find]
      · rename_i h; simp [Memory.find, h, ih]

theorem Memory.find_insert_ne (m : Memory) {a d : Nat} (b : Byte) (h : d ≠ a) :
    (m.insert a b).find d = m.find d := by
  induction m with
  | nil => simp [Memory.insert, Memory.find, h]
  | cons c m ih =>
    obtain ⟨c, u⟩ := c
    simp only [Memory.insert]
    split
    · simp [Memory.find, h]
    · split
      · rename_i h2; subst h2; simp [Memory.find, h]
      · simp [Memory.find, ih]

@[simp] theorem Memory.find_erase_same (m : Memory) (a : Nat) : (m.erase a).find a = none := by
  induction m with
  | nil => rfl
  | cons c m ih =>
    obtain ⟨c, u⟩ := c
    simp only [Memory.erase, List.filter_cons] at ih ⊢
    split
    · rename_i h; simp only [bne_iff_ne, ne_eq] at h
      simp [Memory.find, Ne.symm h, ih]
    · exact ih

theorem Memory.find_erase_ne (m : Memory) {a d : Nat} (h : d ≠ a) : (m.erase a).find d = m.find d := by
  induction m with
  | nil => rfl
  | cons c m ih =>
    obtain ⟨c, u⟩ := c
    simp only [Memory.erase, List.filter_cons] at ih ⊢
    split
    · simp [Memory.find, ih]
    · rename_i h2
      have : c = a := by simpa using h2
      subst this; simp [Memory.find, h, ih]

/-! ## Read after write -/

@[simp] theorem Memory.read_write_same (font : Font) (m : Memory) (a : Nat) (b : Byte) :
    (m.write font a b).read font a = b := by
  unfold Memory.write Memory.read
  split <;> simp_all

theorem Memory.read_write_ne (font : Font) (m : Memory) {a d : Nat} (b : Byte) (h : d ≠ a) :
    (m.write font a b).read font d = m.read font d := by
  unfold Memory.write Memory.read
  split
  · rw [Memory.find_erase_ne m h]
  · rw [Memory.find_insert_ne m b h]

theorem Memory.read_writeList_outside (font : Font) (m : Memory) (a : Nat) (bs : List Byte) (d : Nat)
    (h : d < a ∨ a + bs.length ≤ d) : (m.writeList font a bs).read font d = m.read font d := by
  induction bs generalizing m a with
  | nil => rfl
  | cons b bs ih =>
    simp only [List.length_cons] at h
    rw [Memory.writeList, ih _ _ (by omega), Memory.read_write_ne font m b (by omega)]

theorem Memory.read_writeList_inside (font : Font) (m : Memory) (a : Nat) (bs : List Byte) (j : Nat)
    (h : j < bs.length) : (m.writeList font a bs).read font (a + j) = bs[j] := by
  induction bs generalizing m a j with
  | nil => simp at h
  | cons b bs ih =>
    cases j with
    | zero => rw [Memory.writeList, Memory.read_writeList_outside _ _ _ _ _ (by omega)]; simp
    | succ j =>
      have := ih (m.write font a b) (a + 1) j (by simpa using h)
      rw [Memory.writeList, show a + (j + 1) = a + 1 + j by omega, this]
      simp

@[simp] theorem State.readByte_writeBytes_outside (s : State) (a : Nat) (bs : List Byte) (d : Nat)
    (h : d < a ∨ a + bs.length ≤ d) : (s.writeBytes a bs).readByte d = s.readByte d :=
  Memory.read_writeList_outside _ _ _ _ _ h

theorem State.readByte_writeBytes_inside (s : State) (a : Nat) (bs : List Byte) (j : Nat) (h : j < bs.length) :
    (s.writeBytes a bs).readByte (a + j) = bs[j] :=
  Memory.read_writeList_inside _ _ _ _ _ h

@[simp] theorem State.length_readBytes (s : State) (a n : Nat) : (s.readBytes a n).length = n := by
  simp [State.readBytes]

@[simp] theorem State.getElem_readBytes (s : State) (a n j : Nat) (h : j < (s.readBytes a n).length) :
    (s.readBytes a n)[j] = s.readByte (a + j) := by
  simp [State.readBytes]

/-! ## The canonical form -/

theorem Memory.mem_insert {m : Memory} {a : Nat} {b : Byte} {c : Host.Cell} (h : c ∈ m.insert a b) :
    c = (a, b) ∨ c ∈ m := by
  induction m with
  | nil => simpa [Memory.insert] using h
  | cons d m ih =>
    obtain ⟨d, u⟩ := d
    simp only [Memory.insert] at h
    split at h
    · simpa using h
    · split at h
      · rcases List.mem_cons.1 h with h | h
        · exact .inl h
        · exact .inr (List.mem_cons_of_mem _ h)
      · rcases List.mem_cons.1 h with h | h
        · exact .inr (h ▸ List.mem_cons_self)
        · exact (ih h).imp id (List.mem_cons_of_mem _)

theorem Memory.insert_rising {m : Memory} (a : Nat) (b : Byte) (h : m.Pairwise (fun c d => c.1 < d.1)) :
    (m.insert a b).Pairwise (fun c d => c.1 < d.1) := by
  induction m with
  | nil => simp [Memory.insert]
  | cons d m ih =>
    obtain ⟨d, u⟩ := d
    rw [List.pairwise_cons] at h
    simp only [Memory.insert]
    split
    · rename_i ha
      refine List.pairwise_cons.2 ⟨?_, List.pairwise_cons.2 h⟩
      intro c hc
      rcases List.mem_cons.1 hc with hc | hc
      · subst hc; exact ha
      · exact Nat.lt_trans ha (h.1 c hc)
    · split
      · rename_i ha; subst ha; exact List.pairwise_cons.2 h
      · refine List.pairwise_cons.2 ⟨?_, ih h.2⟩
        intro c hc
        rcases Memory.mem_insert hc with hc | hc
        · subst hc; show d < a; omega
        · exact h.1 c hc

/-- Writing a byte inside memory keeps the canonical form. -/
theorem Memory.write_wf {font : Font} {m : Memory} {a : Nat} (b : Byte) (ha : a < 0x1000) (h : m.wf font) :
    (m.write font a b).wf font := by
  unfold Memory.write
  split
  · exact ⟨h.1.filter _, fun c hc => h.2 c (List.mem_filter.1 hc).1⟩
  · rename_i hb
    refine ⟨Memory.insert_rising a b h.1, fun c hc => ?_⟩
    rcases Memory.mem_insert hc with hc | hc
    · subst hc; exact ⟨ha, hb⟩
    · exact h.2 c hc

/-- A write lists no address but the one written and those listed before. -/
theorem Memory.mem_write {font : Font} {m : Memory} {a : Nat} {b : Byte} {c : Host.Cell}
    (h : c ∈ m.write font a b) : c.1 = a ∨ c ∈ m := by
  unfold Memory.write at h
  split at h
  · exact .inr (List.mem_filter.1 h).1
  · exact (Memory.mem_insert h).imp (fun e => by rw [e]) id

theorem Memory.writeList_wf {font : Font} {m : Memory} {a : Nat} {bs : List Byte} (ha : a + bs.length ≤ 0x1000)
    (h : m.wf font) : (m.writeList font a bs).wf font := by
  induction bs generalizing m a with
  | nil => exact h
  | cons b bs ih =>
    simp only [List.length_cons] at ha
    exact ih (by omega) (Memory.write_wf b (by omega) h)

theorem Memory.mem_writeList {font : Font} {m : Memory} {a : Nat} {bs : List Byte} {c : Host.Cell}
    (h : c ∈ m.writeList font a bs) : a ≤ c.1 ∨ c ∈ m := by
  induction bs generalizing m a with
  | nil => exact .inr h
  | cons b bs ih =>
    rcases ih h with h | h
    · exact .inl (by omega)
    · exact (Memory.mem_write h).imp (fun e => by omega) id

/-- Construction lists nothing. -/
theorem State.construct_mem_wf (config : Config) : Memory.wf config.font (State.construct config).mem := by
  exact ⟨List.Pairwise.nil, fun c hc => by cases hc⟩

theorem State.reset_mem_wf : Memory.wf State.reset.config.font State.reset.mem := State.construct_mem_wf _

end Sys2Proof.Machine
end

