-- ==== Sys2Proof/Laws/Ops.lean ====
section
/-! SUPPORT. One lemma for each shared operation that says everything it can do; callers cite it instead of
unfolding it. -/

namespace Sys2Proof.Machine

/-! ## Checked blocks (R55, R56, R61) -/

theorem readable_range (a n : Nat) :
    (List.range n).all (fun j => readable (a + j)) = true ↔ n = 0 ∨ a + n ≤ 0x1000 := by
  simp only [List.all_eq_true, List.mem_range, readable, decide_eq_true_eq]
  constructor
  · intro h
    by_cases hn : n = 0
    · exact .inl hn
    · have := h (n - 1) (by omega); right; omega
  · intro h j hj; omega

theorem writable_range (a n : Nat) :
    (List.range n).all (fun j => writable (a + j)) = true ↔ n = 0 ∨ (0x200 ≤ a ∧ a + n ≤ 0x1000) := by
  simp only [List.all_eq_true, List.mem_range, writable, decide_eq_true_eq, Bool.and_eq_true]
  constructor
  · intro h
    by_cases hn : n = 0
    · exact .inl hn
    · have h1 := h (n - 1) (by omega)
      have h2 := h 0 (by omega)
      right; omega
  · intro h j hj; omega

theorem State.loadBlock_eq (s : State) (a n : Nat) :
    s.loadBlock a n = if n = 0 ∨ a + n ≤ 0x1000 then .ok (s.readBytes a n) else .error .addressOutOfRange := by
  unfold State.loadBlock
  simp only [readable_range]

theorem State.storeBlock_eq (s : State) (a : Nat) (bs : List Byte) :
    s.storeBlock a bs = if bs.length = 0 ∨ (0x200 ≤ a ∧ a + bs.length ≤ 0x1000) then .ok (s.writeBytes a bs)
      else .error .addressOutOfRange := by
  unfold State.storeBlock
  simp only [writable_range]

/-! ## Values -/

@[simp] theorem State.length_regBlock (s : State) (x : RegIdx) : (s.regBlock (x.toNat + 1)).length = x.toNat + 1 := by
  have := x.isLt
  simp [State.regBlock]; omega

theorem State.getElem_regBlock (s : State) (n j : Nat) (h : j < (s.regBlock n).length) :
    (s.regBlock n)[j] = s.v[j]'(by have := h; simp [State.regBlock] at this; omega) := by
  simp [State.regBlock]

theorem State.getElem_regBlock_reg (s : State) (n : Nat) (r : RegIdx) (h : r.toNat < (s.regBlock n).length) :
    (s.regBlock n)[r.toNat] = s.getV r := State.getElem_regBlock s n r.toNat h

@[simp] theorem length_decimalDigits (b : Byte) : (decimalDigits b).length = 3 := rfl

theorem sumByte_eq (a b : Byte) : sumByte a b = a + b := by
  apply BitVec.eq_of_toNat_eq; simp [sumByte]

theorem differenceByte_eq (a b : Byte) : differenceByte a b = a - b := by
  apply BitVec.eq_of_toInt_eq
  simp only [differenceByte, BitVec.toInt_ofInt, BitVec.toInt_sub]
  rw [BitVec.toInt_eq_toNat_bmod, BitVec.toInt_eq_toNat_bmod, Int.bmod_sub_bmod, Int.sub_bmod_bmod]

theorem State.effAddr_zero (s : State) : s.effAddr 0 = s.i.toNat := rfl

theorem State.indexPlus_toNat (s : State) (k : Nat) : (s.indexPlus k).toNat = (s.i.toNat + k) % 4096 := by
  simp [State.indexPlus]; omega

/-- Every value an instruction computes for `I` is below `0x1000` (R26). -/
theorem State.indexAfterBlock_bound (s : State) (x : RegIdx) (h : s.i.toNat < 0x1000) :
    (s.indexAfterBlock x).toNat < 0x1000 := by
  unfold State.indexAfterBlock
  split
  · rw [State.indexPlus_toNat]; omega
  · exact h

theorem glyphAddress_toNat (b : Byte) : (glyphAddress b).toNat = 5 * (b.toNat % 16) := by
  simp [glyphAddress, fontBase]; omega

theorem addrWord_toNat (nnn : Addr) : (addrWord nnn).toNat = nnn.toNat := by
  have := nnn.isLt
  simp [addrWord]; omega

/-- `Bnnn` needs no reduction: the sum is at most `0x10FE` (R28, R127). -/
theorem State.offsetTarget_toNat (s : State) (nnn : Addr) :
    (s.offsetTarget nnn).toNat = nnn.toNat + (s.getV 0).toNat := by
  have h1 := nnn.isLt
  have h2 := (s.getV 0).isLt
  simp [State.offsetTarget, addrWord] at *; omega

theorem countDown_toNat (t : Byte) : (countDown t).toNat = t.toNat - 1 := by
  unfold countDown
  split
  · rename_i h; subst h; rfl
  · rename_i h
    have : t.toNat ≠ 0 := fun e => h (BitVec.eq_of_toNat_eq (by simpa using e))
    have := t.isLt
    simp [BitVec.toNat_sub]; omega

/-! ## The call stack -/

theorem State.push?_eq_some {s t : State} {w : Word} (h : s.push? w = some t) :
    ∃ hs : s.sp.toNat < 16, t = { s with stack := s.stack.set s.sp.toNat w hs, sp := s.sp + 1#16 } := by
  unfold State.push? at h
  split at h
  · exact ⟨_, by simpa using h.symm⟩
  · cases h

theorem State.push?_of_room {s : State} (w : Word) (hs : s.sp.toNat < 16) :
    s.push? w = some { s with stack := s.stack.set s.sp.toNat w hs, sp := s.sp + 1#16 } := by
  simp [State.push?, hs]

theorem State.pop?_eq_some {s t : State} {w : Word} (h : s.pop? = some (w, t)) :
    ∃ hs : 1 ≤ s.sp.toNat ∧ s.sp.toNat ≤ 16,
      w = s.stack[s.sp.toNat - 1]'(by omega) ∧ t = { s with sp := s.sp - 1#16 } := by
  unfold State.pop? at h
  split at h
  · simp only [Option.some.injEq, Prod.mk.injEq] at h
    exact ⟨‹_›, h.1.symm, h.2.symm⟩
  · cases h

theorem State.pop?_of_entry {s : State} (hs : 1 ≤ s.sp.toNat ∧ s.sp.toNat ≤ 16) :
    s.pop? = some (s.stack[s.sp.toNat - 1]'(by omega), { s with sp := s.sp - 1#16 }) := by
  simp [State.pop?, hs]

/-! ## Committing or raising -/

@[simp] theorem State.commit_ok (s : State) (instr : Instr) (t : State) : s.commit instr (.ok t) = .next t := rfl

@[simp] theorem State.commit_error (s : State) (instr : Instr) (kind : ErrorKind) :
    s.commit instr (.error kind) = .next { s with status := .halted kind s.pc (some (encode instr)) } := rfl

@[simp] theorem State.raise_eq (s : State) (kind : ErrorKind) (word : Option Word) :
    s.raise kind word = .next { s with status := .halted kind s.pc word } := rfl

@[simp] theorem State.raiseIn_eq (s : State) (instr : Instr) (kind : ErrorKind) :
    s.raiseIn instr kind = .next { s with status := .halted kind s.pc (some (encode instr)) } := rfl

/-! ## Fetch (R57, R102) -/

theorem State.policyFaults_eq_false (s : State) :
    s.policyFaults = false ↔ (s.config.pcPolicy = .strict → s.pc.toNat % 2 = 0 ∧ 0x200 ≤ s.pc.toNat) := by
  unfold State.policyFaults
  cases s.config.pcPolicy <;> simp

theorem State.fetch_eq_ok {s : State} {w : Word} (h : s.fetch = .ok w) :
    s.policyFaults = false ∧ s.pc.toNat + 1 ≤ 0xFFF ∧
      w = wordOfBytes (s.readByte s.pc.toNat) (s.readByte (s.pc.toNat + 1)) := by
  unfold State.fetch State.fetchWord at h
  split at h
  · cases h
  · split at h
    · cases h
    · refine ⟨by simp_all, by omega, ?_⟩
      simpa using h.symm

theorem State.fetch_of_checks {s : State} (hp : s.policyFaults = false) (ha : s.pc.toNat + 1 ≤ 0xFFF) :
    s.fetch = .ok (wordOfBytes (s.readByte s.pc.toNat) (s.readByte (s.pc.toNat + 1))) := by
  have : ¬ 0xFFF < s.pc.toNat + 1 := by omega
  simp [State.fetch, State.fetchWord, hp, this]

theorem State.fetch_error_kind {s : State} {kind : ErrorKind} (h : s.fetch = .error kind) :
    kind = .addressOutOfRange := by
  unfold State.fetch State.fetchWord at h
  split at h
  · simpa using h.symm
  · split at h
    · simpa using h.symm
    · cases h

/-! ## Sprites (R191) -/

theorem Framebuffer.pixel_toggle (fb : Framebuffer) (px py qx qy : Nat) (hx : qx < 64) :
    (fb.toggle px py).pixel qx qy =
      (fb.pixel qx qy != (decide (qx = px) && decide (qy = py) && decide (py < 32))) := by
  unfold Framebuffer.toggle Framebuffer.pixel
  by_cases hp : py < 32
  · rw [dif_pos hp]
    by_cases hq : qy < 32
    · rw [dif_pos hq, dif_pos hq, Vector.getElem_set]
      by_cases he : py = qy
      · subst he
        by_cases hqx : qx = px
        · subst hqx; simp [hp, hx]
        · have : px ≠ qx := fun e => hqx e.symm
          simp [BitVec.getLsbD_twoPow, hqx, this]
      · simp [he, Ne.symm he]
    · rw [dif_neg hq, dif_neg hq]
      have : qy ≠ py := by omega
      simp [this]
  · simp [hp]

@[simp] theorem Framebuffer.pixel_clear (px py : Nat) : Framebuffer.clear.pixel px py = false := by
  unfold Framebuffer.clear Framebuffer.pixel
  split <;> simp

end Sys2Proof.Machine
end

