-- ==== Sys2Proof/Laws/Sprite.lean ====
section
/-! SUPPORT. What drawing a sprite does, pixel by pixel (44_display.md R191): the touched pixels as a list without
repeats, each toggled once. -/

namespace Sys2Proof.Machine

/-- Toggling one pixel and noting whether it was on. -/
def touch (d : Drawing) (p : Nat × Nat) : Drawing := (d.1.toggle p.1 p.2, d.2 || d.1.pixel p.1 p.2)

/-- The pixels the 1 bits of sprite row `j` fall on, from left to right. -/
def touchedRow (cx cy j : Nat) (row : Byte) : List (Nat × Nat) :=
  ((List.range 8).filter (spriteBit row)).map fun b => (wrapX cx b, wrapY cy j)

/-- The pixels the 1 bits of the sprite rows from row `j` on fall on. -/
def touchedRows (cx cy : Nat) : Nat → List Byte → List (Nat × Nat)
  | _, [] => []
  | j, row :: rows => touchedRow cx cy j row ++ touchedRows cx cy (j + 1) rows

theorem drawRow_eq_touch (cx cy j : Nat) (row : Byte) (d : Drawing) :
    drawRow cx cy j row d = (touchedRow cx cy j row).foldl touch d := by
  unfold drawRow touchedRow
  rw [List.foldl_map, List.foldl_filter]
  rfl

theorem drawRows_eq_touch (cx cy j : Nat) (rows : List Byte) (d : Drawing) :
    drawRows cx cy j rows d = (touchedRows cx cy j rows).foldl touch d := by
  induction rows generalizing j d with
  | nil => rfl
  | cons row rows ih => rw [drawRows, touchedRows, List.foldl_append, ih, drawRow_eq_touch]

theorem mem_touchedRow {cx cy j : Nat} {row : Byte} {p : Nat × Nat} :
    p ∈ touchedRow cx cy j row ↔ ∃ b, b < 8 ∧ spriteBit row b = true ∧ p = (wrapX cx b, wrapY cy j) := by
  simp only [touchedRow, List.mem_map, List.mem_filter, List.mem_range]
  constructor
  · rintro ⟨b, ⟨h1, h2⟩, rfl⟩; exact ⟨b, h1, h2, rfl⟩
  · rintro ⟨b, h1, h2, rfl⟩; exact ⟨b, ⟨h1, h2⟩, rfl⟩

theorem mem_touchedRows {cx cy j : Nat} {rows : List Byte} {p : Nat × Nat} :
    p ∈ touchedRows cx cy j rows ↔
      ∃ (k b : Nat) (h : k < rows.length), b < 8 ∧ spriteBit rows[k] b = true ∧ p = (wrapX cx b, wrapY cy (j + k)) := by
  induction rows generalizing j with
  | nil => simp [touchedRows]
  | cons row rows ih =>
    rw [touchedRows, List.mem_append, ih, mem_touchedRow]
    constructor
    · rintro (⟨b, h1, h2, rfl⟩ | ⟨k, b, h, h1, h2, rfl⟩)
      · exact ⟨0, b, by simp, h1, h2, rfl⟩
      · exact ⟨k + 1, b, by simpa using h, h1, h2, by rw [show j + (k + 1) = j + 1 + k by omega]⟩
    · rintro ⟨k, b, h, h1, h2, rfl⟩
      cases k with
      | zero => exact .inl ⟨b, h1, h2, rfl⟩
      | succ k => exact .inr ⟨k, b, by simpa using h, h1, h2, by rw [show j + (k + 1) = j + 1 + k by omega]⟩

theorem touchedRow_nodup (cx cy j : Nat) (row : Byte) : (touchedRow cx cy j row).Nodup := by
  unfold touchedRow
  rw [List.nodup_map_iff_inj_on (List.nodup_range.filter _)]
  intro a ha b hb h
  simp only [List.mem_filter, List.mem_range] at ha hb
  simp only [Prod.mk.injEq, wrapX] at h
  omega

/-- Within one draw no pixel is touched twice: 8 columns are distinct modulo 64, up to 32 rows modulo 32. -/
theorem touchedRows_nodup (cx cy j : Nat) (rows : List Byte) (h : rows.length ≤ 32) :
    (touchedRows cx cy j rows).Nodup := by
  induction rows generalizing j with
  | nil => simp [touchedRows]
  | cons row rows ih =>
    simp only [List.length_cons] at h
    rw [touchedRows, List.nodup_append]
    refine ⟨touchedRow_nodup _ _ _ _, ih _ (by omega), ?_⟩
    intro p hp q hq
    rw [mem_touchedRow] at hp
    rw [mem_touchedRows] at hq
    obtain ⟨b, _, _, rfl⟩ := hp
    obtain ⟨k, c, hk, _, _, rfl⟩ := hq
    simp only [wrapY, ne_eq, Prod.mk.injEq, not_and]
    intro _; omega

/-- A touched pixel is toggled, every other keeps its value, and a collision is noted exactly when a touched
pixel was on before. -/
theorem foldl_touch (l : List (Nat × Nat)) (d : Drawing) (hl : l.Nodup) (hb : ∀ p ∈ l, p.1 < 64 ∧ p.2 < 32) :
    (∀ qx qy, qx < 64 → qy < 32 →
      (l.foldl touch d).1.pixel qx qy = (d.1.pixel qx qy != decide ((qx, qy) ∈ l))) ∧
    ((l.foldl touch d).2 = true ↔ d.2 = true ∨ ∃ p ∈ l, d.1.pixel p.1 p.2 = true) := by
  induction l generalizing d with
  | nil => simp
  | cons p l ih =>
    rw [List.nodup_cons] at hl
    have hp := hb p List.mem_cons_self
    have hb' : ∀ q ∈ l, q.1 < 64 ∧ q.2 < 32 := fun q hq => hb q (List.mem_cons_of_mem _ hq)
    obtain ⟨ih1, ih2⟩ := ih (touch d p) hl.2 hb'
    constructor
    · intro qx qy hx hy
      rw [List.foldl_cons, ih1 qx qy hx hy]
      simp only [touch, Framebuffer.pixel_toggle _ _ _ _ _ hx, hp.2, decide_true, Bool.and_true]
      by_cases he : (qx, qy) = p
      · subst he; simp [hl.1]
      · have : ¬ (qx = p.1 ∧ qy = p.2) := fun h => he (Prod.ext h.1 h.2)
        have h2 : (decide (qx = p.1) && decide (qy = p.2)) = false := by simpa using this
        simp [h2, he]
    · rw [List.foldl_cons, ih2]
      have hother : ∀ q ∈ l, (touch d p).1.pixel q.1 q.2 = d.1.pixel q.1 q.2 := by
        intro q hq
        have hne : ¬ (q.1 = p.1 ∧ q.2 = p.2) := fun h => hl.1 (by rwa [show p = q from (Prod.ext h.1 h.2).symm])
        have h2 : (decide (q.1 = p.1) && decide (q.2 = p.2)) = false := by simpa using hne
        simp [touch, Framebuffer.pixel_toggle _ _ _ _ _ (hb' q hq).1, h2]
      constructor
      · rintro (h | ⟨q, hq, h⟩)
        · simp only [touch, Bool.or_eq_true] at h
          exact h.imp id fun h => ⟨p, List.mem_cons_self, h⟩
        · rw [hother q hq] at h; exact .inr ⟨q, List.mem_cons_of_mem _ hq, h⟩
      · rintro (h | ⟨q, hq, h⟩)
        · exact .inl (by simp [touch, h])
        · rcases List.mem_cons.1 hq with rfl | hq
          · exact .inl (by simp [touch, h])
          · exact .inr ⟨q, hq, by rw [hother q hq]; exact h⟩

/-- Drawing a sprite of at most 32 rows: the touched pixels toggle, the rest stay, and the collision is whether a
touched pixel was on. -/
theorem drawSprite_spec (cx cy : Byte) (rows : List Byte) (fb : Framebuffer) (h : rows.length ≤ 32) :
    (∀ qx qy, qx < 64 → qy < 32 → (drawSprite cx cy rows fb).1.pixel qx qy =
      (fb.pixel qx qy != decide ((qx, qy) ∈ touchedRows cx.toNat cy.toNat 0 rows))) ∧
    ((drawSprite cx cy rows fb).2 = true ↔
      ∃ p ∈ touchedRows cx.toNat cy.toNat 0 rows, fb.pixel p.1 p.2 = true) := by
  unfold drawSprite
  rw [drawRows_eq_touch]
  have hb : ∀ p ∈ touchedRows cx.toNat cy.toNat 0 rows, p.1 < 64 ∧ p.2 < 32 := by
    intro p hp
    obtain ⟨k, b, _, _, _, rfl⟩ := mem_touchedRows.1 hp
    exact ⟨Nat.mod_lt _ (by decide), Nat.mod_lt _ (by decide)⟩
  have := foldl_touch _ (fb, false) (touchedRows_nodup cx.toNat cy.toNat 0 rows h) hb
  simpa using this

/-- Two framebuffers with the same pixels are equal. -/
theorem Framebuffer.ext_pixel (f g : Framebuffer)
    (h : ∀ qx qy, qx < 64 → qy < 32 → f.pixel qx qy = g.pixel qx qy) : f = g := by
  apply Vector.ext
  intro y hy
  apply BitVec.eq_of_getLsbD_eq
  intro x hx
  have := h x y hx hy
  simpa [Framebuffer.pixel, hy] using this

end Sys2Proof.Machine
end

