-- ==== Sys2Proof/Laws/Step.lean ====
section
/-! SUPPORT. Inversion of the cycle and of the step: everything a step that goes on can have done. -/

namespace Sys2Proof.Machine

/-- What a cycle that goes on has done: halted at the fetch, halted at the decode, or executed the decoded
instruction (R110). -/
theorem State.runCycle_cases {s t : State} (h : s.runCycle = .next t) :
    (s.fetch = .error .addressOutOfRange ∧ t = { s with status := .halted .addressOutOfRange s.pc none }) ∨
    (∃ w u, s.fetch = .ok w ∧ decode w = .undefined u ∧
      t = { s with status := .halted .unknownOpcode s.pc (some u) }) ∨
    (∃ w i, s.fetch = .ok w ∧ decode w = .known i ∧ exec i s = .next t) := by
  unfold State.runCycle at h
  split at h
  · rename_i kind hf
    have := State.fetch_error_kind hf; subst this
    exact .inl ⟨hf, by simpa using h.symm⟩
  · rename_i w hf
    split at h
    · exact .inr (.inl ⟨w, _, hf, ‹_›, by simpa using h.symm⟩)
    · exact .inr (.inr ⟨w, _, hf, ‹_›, h⟩)

/-- What a step that goes on has done: a cycle or a tick of a running machine, a keypad write, or an admitted
load (R235). -/
theorem step_cases {s t : State} (h : step s = .next t) :
    (s.nextAction = .cycle ∧ s.status = .running ∧ s.takeAction.beginCycle.runCycle = .next t) ∨
    (s.nextAction = .tick ∧ s.status = .running ∧ t = s.takeAction.tickTimers) ∨
    (∃ k, s.nextAction = .setKeys k ∧ t = s.takeAction.setKeys k) ∨
    (∃ image, s.nextAction = .loadProgram image ∧ s.loadable = true ∧
      image.length ≤ s.config.programCeiling - 0x200 ∧
      t = { s.takeAction.writeBytes 0x200 image with loadable := false }) := by
  unfold step State.perform at h
  split at h
  · split at h
    · rename_i ha hr
      exact .inl ⟨ha, of_decide_eq_true hr, h⟩
    · cases h
  · split at h
    · rename_i ha hr
      exact .inr (.inl ⟨ha, of_decide_eq_true hr, by simpa using h.symm⟩)
    · cases h
  · exact .inr (.inr (.inl ⟨_, ‹_›, by simpa using h.symm⟩))
  · rename_i image ha
    split at h
    · rename_i hl
      split at h
      · rename_i u hu
        unfold State.loadProgram at hu
        split at hu
        · cases hu
        · rename_i hlen
          refine .inr (.inr (.inr ⟨image, ha, hl, Nat.le_of_not_lt hlen, ?_⟩))
          cases h; cases hu; rfl
      · cases h
    · cases h

/-- A cycle of a running machine whose fetch and decode succeed is `exec` of the decoded instruction. -/
theorem step_eq_exec {s : State} {i : Instr} (hr : s.status = .running) (ha : s.nextAction = .cycle)
    (hp : s.policyFaults = false) (hb : s.pc.toNat + 1 ≤ 0xFFF)
    (hd : decode (wordOfBytes (s.readByte s.pc.toNat) (s.readByte (s.pc.toNat + 1))) = .known i) :
    step s = exec i s.takeAction.beginCycle := by
  have hf : s.takeAction.beginCycle.fetch =
      .ok (wordOfBytes (s.readByte s.pc.toNat) (s.readByte (s.pc.toNat + 1))) := State.fetch_of_checks hp hb
  simp [step, ha, State.perform, State.isRunning, hr, State.runCycle, hf, hd]

end Sys2Proof.Machine
end

