-- ==== Sys2Proof/Certificates/Slice0/Obligations.lean ====
section
/-! DEFINITION. The statements for the provers, each formalising rules of spec/. `Part`, `KeepsAllBut` and the other
terms of a frame are in Sys2Proof/Safety.lean. A docstring that names a decision D<n> of 92_eei_decisions.md or
a log entry says that the clause rests on a choice of the spec or of the model, not on the source. -/

open Sys2Proof Sys2Proof.Machine

/-! ## Encoding -/

/-- Decode and encode agree (30_encoding.md R81 to R84): no bit of an operand is dropped, whatever its value. The
sub-codes themselves are the spec's choice (D31, log 131). -/
def Obligations.DecodeOfEncodeIsTheInstruction : Prop :=
  ∀ i : Instr, decode (encode i) = .known i

/-- The other direction: every word that decodes is the encoding of what it decodes to, so decoding loses no bit
of a defined word (R88 derives it from R84; the halt report of log 2 rests on it). -/
def Obligations.EncodeOfDecodeIsTheWord : Prop :=
  ∀ (w : Word) (i : Instr), decode w = .known i → encode i = w

/-- The case-by-case decoder and the mask and match columns of opcode_table.json define the same words, with the
same instruction row (R84, R87; sub-codes D31, undefined sub-codes D17). -/
def Obligations.DecoderAgreesWithOpcodeTable : Prop :=
  (∀ (w : Word) (i : Instr), decode w = .known i → w &&& (opcodeRow i).2.1 = (opcodeRow i).2.2) ∧
  (∀ (w : Word) (j : Instr), w &&& (opcodeRow j).2.1 = (opcodeRow j).2.2 →
    ∃ i, decode w = .known i ∧ opcodeRow i = opcodeRow j) ∧
  (∀ w : Word, (∀ i, decode w ≠ .known i) → decode w = .undefined w)

/-- R86: family 0 has exactly two defined words; every other `0nnn`, `0x0000` and SYS among them, is
`Undefined(w)` and raises `UnknownOpcode` when a cycle executes it. -/
def Obligations.FamilyZeroDefinesTwoWords : Prop :=
  ∀ w : Word, w.toNat / 0x1000 = 0 →
    (w = 0x00E0#16 → decode w = .known .cls) ∧ (w = 0x00EE#16 → decode w = .known .ret) ∧
    (w ≠ 0x00E0#16 → w ≠ 0x00EE#16 → decode w = .undefined w ∧
      ∀ s : State, s.fetch = .ok w → HaltsWith s .unknownOpcode w s.runCycle)

/-- Words written out bit by bit from the encodings of 41_control_flow.md to 45_keypad_timer.md decode to the
instructions they stand for (sub-codes of families 8 and F: D31, log 131). -/
def Obligations.SampleWordsDecode : Prop :=
  decode 0b0000000011100000#16 = .known .cls ∧
  decode 0b0010001100000000#16 = .known (.call 0x300#12) ∧
  decode 0b0111000111111111#16 = .known (.addImm 0x1#4 0xFF#8) ∧
  decode 0b1000000100100101#16 = .known (.sub 0x1#4 0x2#4) ∧
  decode 0b1101000000010101#16 = .known (.drw 0x0#4 0x1#4 0x5#4) ∧
  decode 0b1110010110011110#16 = .known (.skp 0x5#4) ∧
  decode 0b1111101000110011#16 = .known (.ldBVx 0xA#4) ∧
  decode 0b0101000100100001#16 = .undefined 0x5121#16

/-! ## Fetch and the cycle -/

/-- R57: `FetchWord(a)` raises `AddressOutOfRange` when `a + 1 > 0xFFF`, and else is the big-endian word of the
bytes at `a` and `a + 1`. -/
def Obligations.FetchWordIsBigEndian : Prop :=
  ∀ (s : State) (a : Nat),
    (0xFFF < a + 1 → s.fetchWord a = .error .addressOutOfRange) ∧
    (a + 1 ≤ 0xFFF → ∃ w, s.fetchWord a = .ok w ∧
      w.toNat = 256 * (s.readByte a).toNat + (s.readByte (a + 1)).toNat)

/-- A step runs the decoded instruction (40_cycle.md R110): in a running machine whose next host action is a
cycle, at a `PC` that passes the fetch checks, the step is `exec` of the instruction the two bytes at `PC`
decode to. What the step adds is the model's own: the action is taken off the schedule (log 7), and a program
can no longer be loaded (log 8). -/
def Obligations.StepRunsDecodedInstruction : Prop :=
  ∀ (s : State) (i : Instr), s.status = .running → s.nextAction = .cycle → s.pc.toNat + 1 ≤ 0xFFF →
    (s.config.pcPolicy = .strict → s.pc.toNat % 2 = 0 ∧ 0x200 ≤ s.pc.toNat) →
    decode (wordOfBytes (s.readByte s.pc.toNat) (s.readByte (s.pc.toNat + 1))) = .known i →
    step s = exec i { s with schedule := s.schedule.tail, loadable := false }

/-- A word placed by `withFetchWord` is the one the next step runs (the model's own, log 14). -/
def Obligations.WithFetchWordRunsTheWord : Prop :=
  ∀ (s : State) (nbits w : Nat) (i : Instr), s.pc.toNat + 1 ≤ 0xFFF →
    (s.config.pcPolicy = .strict → s.pc.toNat % 2 = 0 ∧ 0x200 ≤ s.pc.toNat) →
    decodeTableWord nbits w = some i →
    step (s.withFetchWord nbits w) = exec i { s.withFetchWord nbits w with loadable := false }

/-- The fetch checks of R102, for both values of `PC_POLICY` (D18, log 118): a failing fetch halts with
`AddressOutOfRange` and no word (`STATUS` as D21 represents it, log 121). -/
def Obligations.FailingFetchHalts : Prop :=
  ∀ s : State, s.status = .running → s.nextAction = .cycle →
    0xFFF < s.pc.toNat + 1 ∨
      (s.config.pcPolicy = .strict ∧ (s.pc.toNat % 2 = 1 ∨ s.pc.toNat < 0x200)) →
    step s = .next { s with
      schedule := s.schedule.tail, loadable := false, status := .halted .addressOutOfRange s.pc none }

/-- R104: an undefined word halts the machine with `UnknownOpcode`, recording the word (`STATUS` as D21 represents
it, log 121). -/
def Obligations.UndefinedWordHalts : Prop :=
  ∀ (s : State) (w : Word), s.status = .running → s.nextAction = .cycle → s.pc.toNat + 1 ≤ 0xFFF →
    (s.config.pcPolicy = .strict → s.pc.toNat % 2 = 0 ∧ 0x200 ≤ s.pc.toNat) →
    s.readByte s.pc.toNat = w.extractLsb' 8 8 → s.readByte (s.pc.toNat + 1) = w.extractLsb' 0 8 →
    (∀ i, decode w ≠ .known i) →
    step s = .next { s with
      schedule := s.schedule.tail, loadable := false, status := .halted .unknownOpcode s.pc (some w) }

/-- Every error is precise (60_exceptions.md R224, derived there from R106 and R221): a step after which a running
machine is halted changed nothing but `STATUS`, which reports a fatal error at the `PC` of the step (D21, log
121), and the model's own host inputs (logs 7 and 8). -/
def Obligations.ErrorsArePrecise : Prop :=
  ∀ s t : State, s.status = .running → step s = .next t → t.status ≠ .running →
    ∃ kind word, fatalError kind = true ∧ (word = none → kind = .addressOutOfRange) ∧
      t = { s with schedule := s.schedule.tail, loadable := false, status := .halted kind s.pc word }

/-- Each instruction raises only its own error (R222, derived there), recording its own word (log 2), and a completed
instruction leaves `STATUS` alone. -/
def Obligations.InstructionsRaiseOnlyTheirOwnErrors : Prop :=
  ∀ (i : Instr) (s t : State), exec i s = .next t →
    t.status = s.status ∨ ∃ kind, ownError i kind ∧ HaltsWith s kind (encode i) (.next t)

/-- `Halted` is permanent (R225; no cycle and no tick: D22, log 122): a cycle and a tick are refused, and whatever
step goes on leaves `STATUS` as it is. -/
def Obligations.HaltedIsPermanent : Prop :=
  ∀ s : State, s.status ≠ .running →
    (s.nextAction = .cycle ∨ s.nextAction = .tick → step s = .refused .machineHalted) ∧
    (∀ t, step s = .next t → t.status = s.status)

/-! ## Host actions -/

/-- R230: a tick takes 1 from each timer, floored at 0, in the same step, and changes nothing else. -/
def Obligations.TickCountsBothTimersDown : Prop :=
  ∀ s : State, s.status = .running → s.nextAction = .tick →
    ∃ t, step s = .next t ∧ t.dt.toNat = s.dt.toNat - 1 ∧ t.st.toNat = s.st.toNat - 1 ∧
      t = { s with dt := t.dt, st := t.st, schedule := s.schedule.tail }

/-- A keypad write is a step of its own between cycles, changes only the keypad, and the last of two writes wins
(60_exceptions.md R242, 10_state.md R35). The model's own: the writes stand in the schedule (log 7), and they are
performed on a halted machine too, which R235 can be read to leave out (log 13, DEDUCED). -/
def Obligations.LastKeypadWriteWins : Prop :=
  ∀ (s : State) (k1 k2 : Keypad) (rest : List HostAction), s.schedule = .setKeys k1 :: .setKeys k2 :: rest →
    ∃ t u, step s = .next t ∧ t = { s with keys := k1, schedule := .setKeys k2 :: rest } ∧
      step t = .next u ∧ u = { s with keys := k2, schedule := rest }

/-- R35: the core never writes the keypad, and no action writes the parameters (R9). -/
def Obligations.OnlyKeypadWritesChangeTheKeypad : Prop :=
  ∀ s t : State, step s = .next t →
    t.config = s.config ∧ ((∀ k, s.nextAction ≠ .setKeys k) → t.keys = s.keys)

/-- An image that fits is copied to `0x200`, byte by byte, and nothing else changes; a longer one is an error
(70_reset_and_hazards.md R261). The model's own: `loadable` stands for `freshly constructed`, which ticks, keypad writes
and failed loads keep (log 8, DEDUCED), a load ends it (D25, logs 8 and 125), and the image stands in the schedule
(log 7). -/
def Obligations.LoadProgramCopiesTheImage : Prop :=
  ∀ (s : State) (image : List Byte), s.loadable = true → s.nextAction = .loadProgram image →
    (image.length ≤ s.config.programCeiling - 0x200 →
      ∃ t, step s = .next t ∧ t = { s with mem := t.mem, schedule := s.schedule.tail, loadable := false } ∧
        (∀ (j : Nat) (h : j < image.length), t.readByte (0x200 + j) = image[j]) ∧
        KeepsMemoryOutside 0x200 image.length s t) ∧
    (s.config.programCeiling - 0x200 < image.length → s.loadProgram image = .error .romTooLarge)

/-- A load of too long an image is rejected with the machine unchanged (70_reset_and_hazards.md R262, D24, D25, log 9);
a second load, or one after a cycle, is not admitted (R263, D25, logs 8 and 9). -/
def Obligations.LoadsThatAreRejected : Prop :=
  ∀ (s : State) (image : List Byte), s.nextAction = .loadProgram image →
    (s.loadable = true → s.config.programCeiling - 0x200 < image.length → step s = .refused .romTooLarge) ∧
    (s.loadable = false → step s = .refused .loadNotAdmitted) ∧
    (∀ u v : State, u.nextAction = .cycle ∨ (∃ b, u.nextAction = .loadProgram b) → step u = .next v →
      v.loadable = false) ∧
    (∀ u v : State, u.loadable = false → step u = .next v → v.loadable = false)

/-! ## Reset and invariants -/

/-- Construction (R38) for any parameters: the font at `0x000` (D10, log 110), every other component zero, `PC` at
`0x200`; keys released (D26, log 126) and `STATUS` running (D21, log 121); and `State.reset` is that construction
with the default parameters (R9, logs 4 and 5). -/
def Obligations.ConstructionLeaves : Prop :=
  ∀ c : Config,
    (∀ (j : Nat) (h : j < 80), (State.construct c).readByte j = c.font[j]) ∧
    (∀ a, 80 ≤ a → (State.construct c).readByte a = 0x00#8) ∧
    (∀ r, (State.construct c).getV r = 0x00#8) ∧ (State.construct c).i = 0x0000#16 ∧
    (State.construct c).pc = 0x0200#16 ∧ (State.construct c).sp = 0#16 ∧
    (∀ (k : Nat) (h : k < 16), (State.construct c).stack[k] = 0x0000#16) ∧
    (State.construct c).dt = 0x00#8 ∧ (State.construct c).st = 0x00#8 ∧
    (∀ px py, (State.construct c).fb.pixel px py = false) ∧
    (∀ k, (State.construct c).keyPressed k = false) ∧ (State.construct c).status = .running ∧
    (State.construct c).config = c ∧ State.reset = State.construct defaultConfig

/-- The invariant holds after construction with well-formed parameters. -/
def Obligations.ConstructionMeetsTheInvariant : Prop :=
  ∀ c : Config, c.wellFormed = true → (State.construct c).Inv

/-- The invariant is kept by every step, whatever the host does: memory stays canonical and unwritten below `0x200`
(R52), `I` stays below `0x1000` (R26), `SP` within 16 (R30), `PC` and return addresses within the bounds of R28,
and a halt stays a report of a fatal error at its `PC` (R220, R221). These are conclusions the spec derives, over
the decisions D1, D2, D8, D10, D19, D20 and D21. -/
def Obligations.StepKeepsTheInvariant : Prop :=
  ∀ s t : State, s.Inv → step s = .next t → t.Inv

/-- In a state that meets the invariant no step faults: the model's one fault is never raised (R30, log 10). -/
def Obligations.InvariantStatesNeverFault : Prop :=
  ∀ s : State, s.Inv → ∀ f, step s ≠ .fault f

/-- The reserved region is never changed by any step, in any state (20_memory.md R52; D20 for the error a write
raises instead, log 120). -/
def Obligations.NoStepChangesTheReservedRegion : Prop :=
  ∀ s t : State, step s = .next t → ∀ a, a < 0x200 → t.readByte a = s.readByte a

/-- R53: memory contents change, after construction, only by `load_program`, `Fx33` and `Fx55`. -/
def Obligations.MemoryChangesOnlyByLoadAndStores : Prop :=
  (∀ (s t : State) (a : Nat), step s = .next t → t.readByte a ≠ s.readByte a →
    (∃ image, s.nextAction = .loadProgram image) ∨
    (s.nextAction = .cycle ∧
      ∃ x, s.fetch = .ok (encode (.ldBVx x)) ∨ s.fetch = .ok (encode (.ldMemVx x)))) ∧
  (∀ (i : Instr) (s t : State) (a : Nat), exec i s = .next t → t.readByte a ≠ s.readByte a →
    ∃ x, i = .ldBVx x ∨ i = .ldMemVx x)

/-- The write columns of the access table (10_state.md R39, derived there): no instruction writes a register, `I`, the
stack, a timer, the framebuffer or a byte of memory that its row does not list, nor the keypad, the parameters
or the host inputs. -/
def Obligations.ExecWritesOnlyWhatTheAccessTableLists : Prop :=
  ∀ (i : Instr) (s t : State), exec i s = .next t →
    (∀ r, writesReg i r = false → t.getV r = s.getV r) ∧
    (∀ p, ¬ writesPart s.config p i → Unchanged s t p) ∧
    (∀ a, a < s.effAddr 0 ∨ s.effAddr (storedCount i) ≤ a → t.readByte a = s.readByte a) ∧
    t.keys = s.keys ∧ t.config = s.config ∧ t.schedule = s.schedule ∧ t.loadable = s.loadable

/-- No instruction observes a stack entry at or above `SP` (R31, the spec's decision D3, log 103): two states that
differ only there execute alike, and still differ only there, up to the entry a call writes in both. -/
def Obligations.StaleStackEntriesAreUnobservable : Prop :=
  ∀ (i : Instr) (s t : State) (stack' : Vector Word 16),
    (∀ (k : Nat) (h : k < 16), k < s.sp.toNat → stack'[k] = s.stack[k]) →
    exec i s = .next t →
    ∃ stackT : Vector Word 16, exec i { s with stack := stack' } = .next { t with stack := stackT } ∧
      ∀ (k : Nat) (h : k < 16), k < t.sp.toNat → stackT[k] = t.stack[k]

/-! ## Control flow -/

/-- RET (R120) with an occupied entry, which `SP` counts (D2, log 102): `PC` is the top entry, with no further
increment; the entry is not cleared (D3, log 103). -/
def Obligations.RetReturnsToTheTopEntry : Prop :=
  ∀ (s : State) (h : 1 ≤ s.sp.toNat ∧ s.sp.toNat ≤ 16),
    ∃ t, exec .ret s = .next t ∧ t.pc = s.stack[s.sp.toNat - 1] ∧ t.sp.toNat = s.sp.toNat - 1 ∧
      t.stack = s.stack ∧ KeepsAllBut [.stack] s t

/-- R121: JP sets `PC` to `nnn`, with no further increment, and changes nothing else. -/
def Obligations.JpSetsThePc : Prop :=
  ∀ (nnn : Addr) (s : State),
    ∃ t, exec (.jp nnn) s = .next t ∧ t.pc.toNat = nnn.toNat ∧ KeepsAllBut [] s t

/-- CALL (R122) with room on the stack pushes `pc0 + 2` (D1, log 101) in the entry `SP` names (D2, log 102) and jumps;
every other entry stays. -/
def Obligations.CallPushesTheReturnAddress : Prop :=
  ∀ (nnn : Addr) (s : State) (h : s.sp.toNat < 16),
    ∃ t, exec (.call nnn) s = .next t ∧ t.pc.toNat = nnn.toNat ∧ t.sp.toNat = s.sp.toNat + 1 ∧
      t.stack[s.sp.toNat] = s.pc + 2#16 ∧
      (∀ (k : Nat) (hk : k < 16), k ≠ s.sp.toNat → t.stack[k] = s.stack[k]) ∧ KeepsAllBut [.stack] s t

/-- The stack errors (R120, R122; `STATUS` as D21 represents it, log 121): RET with an empty stack halts with
`StackUnderflow`, CALL on a full stack with `StackOverflow`, and nothing else changes. -/
def Obligations.StackErrorsHalt : Prop :=
  ∀ (nnn : Addr) (s : State),
    (s.sp.toNat = 0 → HaltsWith s .stackUnderflow 0x00EE#16 (exec .ret s)) ∧
    (s.sp.toNat = 16 → HaltsWith s .stackOverflow (0x2#4 ++ nnn) (exec (.call nnn) s))

/-- Above 16, `SP` names no entry and no reachable state holds it (R30, D2): RET and CALL stop by the model's own
fault (log 10). -/
def Obligations.StackPointerAboveSixteenFaults : Prop :=
  ∀ (nnn : Addr) (s : State), 16 < s.sp.toNat →
    exec .ret s = .fault .stackPointerOutOfRange ∧ exec (.call nnn) s = .fault .stackPointerOutOfRange

/-- A call followed at its target by a return gives `PC = pc0 + 2` and the original `SP`, and leaves `S[SP]` holding
`pc0 + 2` (41_control_flow.md R129). The pushed value is the spec's decision D1 (log 101), the count D2 (log 102), and
the stale entry that keeps it D3 (log 103). -/
def Obligations.CallThenRetReturnsAfterTheCall : Prop :=
  ∀ (nnn : Addr) (s : State) (h : s.sp.toNat < 16),
    ∃ t u, exec (.call nnn) s = .next t ∧ t.pc.toNat = nnn.toNat ∧ exec .ret t = .next u ∧
      u.pc = s.pc + 2#16 ∧ u.sp = s.sp ∧ u.stack[s.sp.toNat] = s.pc + 2#16

/-- Seventeen calls with no return (a scenario of the source, quoted in R122): from an empty stack the calls before
the 17th complete and the 17th halts with `StackOverflow`, whatever the targets. -/
def Obligations.SeventeenthCallOverflows : Prop :=
  ∀ (targets : List Addr) (last : Addr) (s : State), targets.length = 16 → s.sp.toNat = 0 →
    ∃ t : State, execAll (targets.map .call) s = .next t ∧ t.status = s.status ∧
      t.sp.toNat = 16 ∧ HaltsWith t .stackOverflow (0x2#4 ++ last) (exec (.call last) t)

/-- R123 and R124: the immediate skips advance `PC` by 4 when the condition holds, else by 2, and change nothing
else. -/
def Obligations.ImmediateSkips : Prop :=
  ∀ (x : RegIdx) (kk : Byte) (s : State),
    (∃ t, exec (.seImm x kk) s = .next t ∧
      t.pc = (if s.getV x = kk then s.pc + 4#16 else s.pc + 2#16) ∧ KeepsAllBut [] s t) ∧
    (∃ t, exec (.sneImm x kk) s = .next t ∧
      t.pc = (if s.getV x ≠ kk then s.pc + 4#16 else s.pc + 2#16) ∧ KeepsAllBut [] s t)

/-- R125 and R126: the register skips, likewise; with `x = y` the first always skips and the second never. -/
def Obligations.RegisterSkips : Prop :=
  ∀ (x y : RegIdx) (s : State),
    (∃ t, exec (.seReg x y) s = .next t ∧
      t.pc = (if s.getV x = s.getV y then s.pc + 4#16 else s.pc + 2#16) ∧
      (x = y → t.pc = s.pc + 4#16) ∧ KeepsAllBut [] s t) ∧
    (∃ t, exec (.sneReg x y) s = .next t ∧
      t.pc = (if s.getV x ≠ s.getV y then s.pc + 4#16 else s.pc + 2#16) ∧
      (x = y → t.pc = s.pc + 2#16) ∧ KeepsAllBut [] s t)

/-- JP V0 (R127): the target is `nnn + V0`, always `V0`, not reduced modulo 4096 (D19, log 119). -/
def Obligations.JpV0AddsV0 : Prop :=
  ∀ (nnn : Addr) (s : State),
    ∃ t, exec (.jpV0 nnn) s = .next t ∧ t.pc.toNat = nnn.toNat + (s.getV 0x0#4).toNat ∧ KeepsAllBut [] s t

/-! ## Registers and ALU -/

/-- R140: `Vx <- kk`, `PC` advances by 2, and nothing else changes, `VF` included unless it is `Vx`. -/
def Obligations.LdImmLoadsTheByte : Prop :=
  ∀ (x : RegIdx) (kk : Byte) (s : State),
    ∃ t, exec (.ldImm x kk) s = .next t ∧ t.getV x = kk ∧ t.pc = s.pc + 2#16 ∧
      KeepsRegsBut (· = x) s t ∧ KeepsAllBut [.regs] s t

/-- R141: `Vx <- (Vx + kk) mod 256`, with no flag: `VF` is not written unless it is `Vx`. -/
def Obligations.AddImmWrapsWithoutAFlag : Prop :=
  ∀ (x : RegIdx) (kk : Byte) (s : State),
    ∃ t, exec (.addImm x kk) s = .next t ∧ (t.getV x).toNat = ((s.getV x).toNat + kk.toNat) % 256 ∧
      t.pc = s.pc + 2#16 ∧ KeepsRegsBut (· = x) s t ∧ KeepsAllBut [.regs] s t

/-- R142, the additive wraparound law: two immediate additions leave what one addition of `(kk + kk') mod 256` leaves,
but for `PC`, which counts the instructions executed. -/
def Obligations.ImmediateAdditionsCompose : Prop :=
  ∀ (x : RegIdx) (kk kk' : Byte) (s : State),
    ∃ t u v, exec (.addImm x kk) s = .next t ∧ exec (.addImm x kk') t = .next u ∧
      exec (.addImm x (BitVec.ofNat 8 ((kk.toNat + kk'.toNat) % 256))) s = .next v ∧
      u = { v with pc := v.pc + 2#16 }

/-- LD, OR, AND and XOR of two registers (R143 to R146): the result in `Vx`, bit by bit; no flag, the spec's
decision D5 (log 105), so `VF` changes only as `Vx`. -/
def Obligations.RegisterLogicWritesVxOnly : Prop :=
  ∀ (x y : RegIdx) (s : State),
    (∃ t, exec (.ldReg x y) s = .next t ∧ t.getV x = s.getV y ∧
      t.pc = s.pc + 2#16 ∧ KeepsRegsBut (· = x) s t ∧ KeepsAllBut [.regs] s t) ∧
    (∃ t, exec (.or x y) s = .next t ∧
      (∀ b, (t.getV x).getLsbD b = ((s.getV x).getLsbD b || (s.getV y).getLsbD b)) ∧
      t.pc = s.pc + 2#16 ∧ KeepsRegsBut (· = x) s t ∧ KeepsAllBut [.regs] s t) ∧
    (∃ t, exec (.and x y) s = .next t ∧
      (∀ b, (t.getV x).getLsbD b = ((s.getV x).getLsbD b && (s.getV y).getLsbD b)) ∧
      t.pc = s.pc + 2#16 ∧ KeepsRegsBut (· = x) s t ∧ KeepsAllBut [.regs] s t) ∧
    (∃ t, exec (.xor x y) s = .next t ∧
      (∀ b, (t.getV x).getLsbD b = ((s.getV x).getLsbD b != (s.getV y).getLsbD b)) ∧
      t.pc = s.pc + 2#16 ∧ KeepsRegsBut (· = x) s t ∧ KeepsAllBut [.regs] s t)

/-- ADD of two registers (R147), read before any write (R107): the sum modulo 256 in `Vx`, the carry in `VF`, which
holds the carry also when it is `Vx` (R108, the spec's decision D6, log 106). -/
def Obligations.AddRegGivesSumAndCarry : Prop :=
  ∀ (x y : RegIdx) (s : State),
    ∃ t, exec (.addReg x y) s = .next t ∧
      (x ≠ VF → (t.getV x).toNat = ((s.getV x).toNat + (s.getV y).toNat) % 256) ∧
      (t.getV VF).toNat = (if 255 < (s.getV x).toNat + (s.getV y).toNat then 1 else 0) ∧
      t.pc = s.pc + 2#16 ∧ KeepsRegsBut (fun r => r = x ∨ r = VF) s t ∧ KeepsAllBut [.regs] s t

/-- SUB and SUBN (R148, R151), read before any write (R107): the difference modulo 256 in `Vx`; `VF` is NOT borrow, 1
exactly when no borrow is needed (derived in R148; for SUBN the decision D7, log 107), and stays the flag when it is
`Vx` (D6, log 106). -/
def Obligations.SubtractionsGiveDifferenceAndNotBorrow : Prop :=
  ∀ (x y : RegIdx) (s : State),
    (∃ t, exec (.sub x y) s = .next t ∧
      (x ≠ VF → ((t.getV x).toNat : Int) = (((s.getV x).toNat : Int) - (s.getV y).toNat) % 256) ∧
      (t.getV VF).toNat = (if (s.getV y).toNat ≤ (s.getV x).toNat then 1 else 0) ∧
      t.pc = s.pc + 2#16 ∧ KeepsRegsBut (fun r => r = x ∨ r = VF) s t ∧ KeepsAllBut [.regs] s t) ∧
    (∃ t, exec (.subn x y) s = .next t ∧
      (x ≠ VF → ((t.getV x).toNat : Int) = (((s.getV y).toNat : Int) - (s.getV x).toNat) % 256) ∧
      (t.getV VF).toNat = (if (s.getV x).toNat ≤ (s.getV y).toNat then 1 else 0) ∧
      t.pc = s.pc + 2#16 ∧ KeepsRegsBut (fun r => r = x ∨ r = VF) s t ∧ KeepsAllBut [.regs] s t)

/-- SHR and SHL (R149, R150) for both values of `SHIFT_SOURCE` (D4, log 104): the shifted value halved, or doubled modulo
256, in `Vx`; the dropped bit, bit 0 or bit 7, in `VF`, which stays the flag when it is `Vx` (D6, log 106). -/
def Obligations.ShiftsMoveOneBitAndKeepTheDroppedBit : Prop :=
  ∀ (x y : RegIdx) (s : State) (a : Byte),
    (s.config.shiftSource = .vx → a = s.getV x) → (s.config.shiftSource = .vy → a = s.getV y) →
    (∃ t, exec (.shr x y) s = .next t ∧
      (x ≠ VF → (t.getV x).toNat = a.toNat / 2) ∧ (t.getV VF).toNat = a.toNat % 2 ∧
      t.pc = s.pc + 2#16 ∧ KeepsRegsBut (fun r => r = x ∨ r = VF) s t ∧ KeepsAllBut [.regs] s t) ∧
    (∃ t, exec (.shl x y) s = .next t ∧
      (x ≠ VF → (t.getV x).toNat = 2 * a.toNat % 256) ∧ (t.getV VF).toNat = a.toNat / 128 ∧
      t.pc = s.pc + 2#16 ∧ KeepsRegsBut (fun r => r = x ∨ r = VF) s t ∧ KeepsAllBut [.regs] s t)

/-- RND (R152): `Vx` is the random byte AND `kk`, for the free random byte of this draw and for every byte `r` in its
place (D16, log 6); the draw is counted (the model's own). -/
def Obligations.RndMasksTheRandomByte : Prop :=
  ∀ (x : RegIdx) (kk : Byte) (s : State),
    exec (.rnd x kk) s = .next (s.randomAnd (Config.randomByte s.draws) x kk) ∧
    ∀ (r : Byte) (t : State), t = s.randomAnd r x kk →
      (∀ b, (t.getV x).getLsbD b = (r.getLsbD b && kk.getLsbD b)) ∧ t.pc = s.pc + 2#16 ∧
      t.draws = s.draws + 1 ∧ KeepsRegsBut (· = x) s t ∧ KeepsAllBut [.regs, .draws] s t

/-! ## Index and memory -/

/-- R170: `I <- nnn`, `PC` advances by 2, and nothing else changes. -/
def Obligations.LdISetsTheIndex : Prop :=
  ∀ (nnn : Addr) (s : State),
    ∃ t, exec (.ldI nnn) s = .next t ∧ t.i.toNat = nnn.toNat ∧ t.pc = s.pc + 2#16 ∧ KeepsAllBut [.index] s t

/-- ADD I (R172): `I <- (I + Vx) mod 4096`; `VF` is not written, the spec's decision D9 (log 109). -/
def Obligations.AddIWrapsModulo4096 : Prop :=
  ∀ (x : RegIdx) (s : State),
    ∃ t, exec (.addIVx x) s = .next t ∧ t.i.toNat = (s.i.toNat + (s.getV x).toNat) % 4096 ∧
      t.pc = s.pc + 2#16 ∧ KeepsAllBut [.index] s t

/-- LD F (R173): `I` is the glyph of the low nibble of `Vx`, five bytes a glyph from `0x000` (D10, log 110), and the
glyph lies within the font. -/
def Obligations.LdFPointsAtTheGlyph : Prop :=
  ∀ (x : RegIdx) (s : State),
    ∃ t, exec (.ldFVx x) s = .next t ∧ t.i.toNat = 5 * ((s.getV x).toNat % 16) ∧ t.i.toNat + 5 ≤ 80 ∧
      t.pc = s.pc + 2#16 ∧ KeepsAllBut [.index] s t

/-- LD B (R174): hundreds, tens and ones of `Vx` at `I`, `I + 1`, `I + 2` (digit order D29, log 129), inside memory and
above the reserved region; every other byte stays, and `I` too. -/
def Obligations.LdBStoresTheDecimalDigits : Prop :=
  ∀ (x : RegIdx) (s : State), 0x200 ≤ s.i.toNat → s.i.toNat + 2 ≤ 0xFFF →
    ∃ t, exec (.ldBVx x) s = .next t ∧
      (t.readByte (s.effAddr 0)).toNat = (s.getV x).toNat / 100 ∧
      (t.readByte (s.effAddr 1)).toNat = (s.getV x).toNat / 10 % 10 ∧
      (t.readByte (s.effAddr 2)).toNat = (s.getV x).toNat % 10 ∧
      KeepsMemoryOutside (s.effAddr 0) 3 s t ∧ t.pc = s.pc + 2#16 ∧ KeepsAllBut [.memory] s t

/-- LD [I] (R175): `V0`..`Vx` at `I`..`I + x`, inside memory and above the reserved region; every other byte stays; `I`
moves only where `LS_ADVANCES_I` says (D8, log 108). -/
def Obligations.StoreBlockWritesTheRegisters : Prop :=
  ∀ (x : RegIdx) (s : State), 0x200 ≤ s.i.toNat → s.i.toNat + x.toNat ≤ 0xFFF →
    ∃ t, exec (.ldMemVx x) s = .next t ∧
      (∀ r : RegIdx, r.toNat ≤ x.toNat → t.readByte (s.effAddr r.toNat) = s.getV r) ∧
      KeepsMemoryOutside (s.effAddr 0) (x.toNat + 1) s t ∧
      t.i.toNat = (if s.config.lsAdvancesI then (s.i.toNat + x.toNat + 1) % 4096 else s.i.toNat) ∧
      t.pc = s.pc + 2#16 ∧ KeepsAllBut [.memory, .index] s t

/-- LD Vx, [I] (R176): memory at `I`..`I + x` in `V0`..`Vx`, the reserved region included (D32, log 132); every other
register stays; `I` moves only where `LS_ADVANCES_I` says (D8, log 108). -/
def Obligations.LoadBlockReadsTheRegisters : Prop :=
  ∀ (x : RegIdx) (s : State), s.i.toNat + x.toNat ≤ 0xFFF →
    ∃ t, exec (.ldVxMem x) s = .next t ∧
      (∀ r : RegIdx, r.toNat ≤ x.toNat → t.getV r = s.readByte (s.effAddr r.toNat)) ∧
      KeepsRegsBut (fun r => r.toNat ≤ x.toNat) s t ∧
      t.i.toNat = (if s.config.lsAdvancesI then (s.i.toNat + x.toNat + 1) % 4096 else s.i.toNat) ∧
      t.pc = s.pc + 2#16 ∧ KeepsAllBut [.regs, .index] s t

/-- The accesses that fail their check (R55, R56, R61) halt with `AddressOutOfRange` and commit nothing: past `0xFFF`
for all, below `0x200` for the stores (D20, D33, logs 120 and 133; `STATUS` as D21 represents it). -/
def Obligations.FailingAccessesHalt : Prop :=
  ∀ (x y : RegIdx) (n : Nibble) (s : State),
    (0xFFF < s.i.toNat + 2 ∨ s.i.toNat < 0x200 →
      HaltsWith s .addressOutOfRange (0xF#4 ++ x ++ 0x33#8) (exec (.ldBVx x) s)) ∧
    (0xFFF < s.i.toNat + x.toNat ∨ s.i.toNat < 0x200 →
      HaltsWith s .addressOutOfRange (0xF#4 ++ x ++ 0x55#8) (exec (.ldMemVx x) s)) ∧
    (0xFFF < s.i.toNat + x.toNat →
      HaltsWith s .addressOutOfRange (0xF#4 ++ x ++ 0x65#8) (exec (.ldVxMem x) s)) ∧
    (0 < n.toNat ∧ 0xFFF < s.i.toNat + n.toNat - 1 →
      HaltsWith s .addressOutOfRange (0xD#4 ++ x ++ y ++ n) (exec (.drw x y n) s))

/-- A stored word is fetched as it was written (20_memory.md R66, the spec's decision D35, log 135): after `Fx55` has
stored `V0` and `V1` at the next instruction's address, the next fetch is the word `V0:V1`. -/
def Obligations.StoredCodeIsFetchedAsWritten : Prop :=
  ∀ (x : RegIdx) (s t : State), 1 ≤ x.toNat → s.i = s.pc + 2#16 → 0x200 ≤ s.i.toNat →
    s.i.toNat + x.toNat ≤ 0xFFF → s.i.toNat % 2 = 0 → exec (.ldMemVx x) s = .next t →
    t.fetch = .ok (wordOfBytes (s.getV 0x0#4) (s.getV 0x1#4))

/-! ## Display -/

/-- R190: CLS turns every pixel off, whatever was on, and does not write `VF`. -/
def Obligations.ClsTurnsEveryPixelOff : Prop :=
  ∀ s : State, ∃ t, exec .cls s = .next t ∧ (∀ px py, t.fb.pixel px py = false) ∧ t.pc = s.pc + 2#16 ∧
    KeepsAllBut [.framebuffer] s t

/-- DRW (R191, with the layout of R193, the spec's decision D12, log 112), for every height, `n = 0` included (R192, D13,
log 113): a pixel toggles exactly when a 1 bit of the sprite falls on it, both coordinates wrapped, and `VF` is 1
exactly when such a pixel was on. -/
def Obligations.DrwTogglesCoveredPixelsAndReportsCollision : Prop :=
  ∀ (x y : RegIdx) (n : Nibble) (s : State), n.toNat = 0 ∨ s.i.toNat + n.toNat - 1 ≤ 0xFFF →
    ∃ t, exec (.drw x y n) s = .next t ∧
      (∀ px py, px < 64 → py < 32 → SpriteCovers s x y n px py →
        t.fb.pixel px py = !s.fb.pixel px py) ∧
      (∀ px py, px < 64 → py < 32 → ¬ SpriteCovers s x y n px py →
        t.fb.pixel px py = s.fb.pixel px py) ∧
      ((∃ px py, px < 64 ∧ py < 32 ∧ SpriteCovers s x y n px py ∧ s.fb.pixel px py = true) →
        t.getV VF = 0x01#8) ∧
      ((¬ ∃ px py, px < 64 ∧ py < 32 ∧ SpriteCovers s x y n px py ∧ s.fb.pixel px py = true) →
        t.getV VF = 0x00#8) ∧
      t.pc = s.pc + 2#16 ∧ KeepsRegsBut (· = VF) s t ∧ KeepsAllBut [.framebuffer, .regs] s t

/-- The XOR round trip (44_display.md R194, derived there from R191): a completed draw, done again with identical
arguments, restores the framebuffer. The second draw collides exactly when some covered pixel was off before the
first (log 15), so after a first draw without collision it collides exactly when the sprite has a 1 bit. -/
def Obligations.DrawTwiceRestoresTheFramebuffer : Prop :=
  ∀ (x y : RegIdx) (n : Nibble) (s : State), n.toNat = 0 ∨ s.i.toNat + n.toNat - 1 ≤ 0xFFF →
    ∃ t, exec (.drw x y n) s = .next t ∧
      (t.getV x = s.getV x → t.getV y = s.getV y →
        ∃ u, exec (.drw x y n) t = .next u ∧ u.fb = s.fb ∧
          ((∃ px py, px < 64 ∧ py < 32 ∧ SpriteCovers s x y n px py ∧ s.fb.pixel px py = false) →
            u.getV VF = 0x01#8) ∧
          ((¬ ∃ px py, px < 64 ∧ py < 32 ∧ SpriteCovers s x y n px py ∧ s.fb.pixel px py = false) →
            u.getV VF = 0x00#8) ∧
          (t.getV VF = 0x00#8 → (u.getV VF = 0x01#8 ↔ ∃ j, j < n.toNat ∧ s.readByte (s.effAddr j) ≠ 0x00#8)))

/-- The flag clause of R194 as it is written there: the second of two identical draws reports a collision whenever the
sprite has a 1 bit. It does not follow from R191 where a covered pixel was on before the first draw (log 15). -/
def Obligations.SecondDrawAlwaysCollides : Prop :=
  ∀ (x y : RegIdx) (n : Nibble) (s t u : State), n.toNat = 0 ∨ s.i.toNat + n.toNat - 1 ≤ 0xFFF →
    exec (.drw x y n) s = .next t → t.getV x = s.getV x → t.getV y = s.getV y →
    exec (.drw x y n) t = .next u → (∃ j, j < n.toNat ∧ s.readByte (s.effAddr j) ≠ 0x00#8) →
    u.getV VF = 0x01#8

/-! ## Keypad and timers -/

/-- SKP and SKNP (R201, R202): the key is the low nibble of `Vx` (R200, the spec's decision D14, log 114). -/
def Obligations.KeySkips : Prop :=
  ∀ (x : RegIdx) (s : State) (k : Nibble), k.toNat = (s.getV x).toNat % 16 →
    (∃ t, exec (.skp x) s = .next t ∧
      t.pc = (if s.keyPressed k = true then s.pc + 4#16 else s.pc + 2#16) ∧ KeepsAllBut [] s t) ∧
    (∃ t, exec (.sknp x) s = .next t ∧
      t.pc = (if s.keyPressed k = true then s.pc + 2#16 else s.pc + 4#16) ∧ KeepsAllBut [] s t)

/-- LD Vx, K (R204) with a key pressed stores the least pressed key (D15, log 115); with none it changes nothing at
all, so the next cycle executes it again. -/
def Obligations.KeyWaitStoresTheLeastKeyOrPolls : Prop :=
  ∀ (x : RegIdx) (s : State),
    (∀ k : Nibble, s.keyPressed k = true → (∀ j : Nibble, j.toNat < k.toNat → s.keyPressed j = false) →
      ∃ t, exec (.ldVxK x) s = .next t ∧ (t.getV x).toNat = k.toNat ∧ t.pc = s.pc + 2#16 ∧
        KeepsRegsBut (· = x) s t ∧ KeepsAllBut [.regs] s t) ∧
    ((∀ k : Nibble, s.keyPressed k = false) → exec (.ldVxK x) s = .next s)

/-- The timer transfers (R203, R205, R206): `Fx07` reads the delay timer (D30, log 130), `Fx15` sets only it and `Fx18`
only the sound timer (D31, log 131). -/
def Obligations.TimerTransfers : Prop :=
  ∀ (x : RegIdx) (s : State),
    (∃ t, exec (.ldVxDt x) s = .next t ∧ t.getV x = s.dt ∧ t.pc = s.pc + 2#16 ∧
      KeepsRegsBut (· = x) s t ∧ KeepsAllBut [.regs] s t) ∧
    (∃ t, exec (.ldDtVx x) s = .next t ∧ t.dt = s.getV x ∧ t.pc = s.pc + 2#16 ∧ KeepsAllBut [.delay] s t) ∧
    (∃ t, exec (.ldStVx x) s = .next t ∧ t.st = s.getV x ∧ t.pc = s.pc + 2#16 ∧ KeepsAllBut [.sound] s t)

/-- A delay set and read back has lost exactly the ticks in between, floored at 0 (70_reset_and_hazards.md R268,
derived there; D30 and D31, logs 130 and 131). -/
def Obligations.DelayReadsBackLessTheTicks : Prop :=
  ∀ (x y : RegIdx) (ticks : Nat) (s : State),
    ∃ t u, exec (.ldDtVx x) s = .next t ∧ exec (.ldVxDt y) (State.tickTimers^[ticks] t) = .next u ∧
      (u.getV y).toNat = (s.getV x).toNat - ticks
end

