-- ==== Sys2Proof/Tests/Slice0.lean ====
section
/-! SUPPORT. Small tests of one step, with expected results from 95_test_vectors.md and from the worked examples of
the instruction rules, the decoding of words written out from the encodings, the smoke tests of WellFormed, and for
every obligation with hypotheses a state and operands that meet them all. -/

namespace Sys2Proof.Tests

open Sys2Proof Sys2Proof.Machine

/-! ## Helpers -/

/-- The next state of an outcome, if it has one. -/
def nextOf : Result → Option State
  | .next s => some s
  | _ => none

/-- A machine after construction with a `PROGRAM_CEILING` of two bytes above `0x200`, for loads that stay small. -/
def smallConfig : Config := { defaultConfig with programCeiling := 0x202 }

/-- The parameters with the other value of each policy of R9. -/
def otherConfig : Config :=
  { defaultConfig with shiftSource := .vy, lsAdvancesI := true, pcPolicy := .permissive }

def fresh : State := State.reset

/-- The machine constructed with the other value of each policy. -/
def freshOther : State := State.construct otherConfig

/-- Registers set one after another. -/
def withRegs (s : State) : List (RegIdx × Byte) → State
  | [] => s
  | (x, b) :: rest => withRegs (s.setV x b) rest

/-- One step of a machine with a word at its `PC`. -/
def after (s : State) (w : Nat) : Option State := nextOf (step (s.withFetchWord 16 w))

/-- The status after one step of a machine with a word at its `PC`. -/
def statusAfter (s : State) (w : Nat) : Option Status := (after s w).map (·.status)

/-- Two return addresses on the stack, at `0x300` (C2). -/
def twoCalls : State :=
  { fresh with pc := 0x300#16, sp := 2#16, stack := (fresh.stack.set 0 0x202#16).set 1 0x402#16 }

/-- The keys `0x7` and `0xC` pressed. -/
def keys7C : Keypad := ((Vector.replicate 16 false).set 7 true).set 12 true

/-- The key `0xA` pressed. -/
def keysA : Keypad := (Vector.replicate 16 false).set 10 true

/-- Pixels that are on, as `y * 64 + x`, within the rows that one test looks at. -/
def onPixels (rows : List Nat) (fb : Framebuffer) : List Nat :=
  rows.flatMap fun y => ((List.range 64).filter fun x => fb.pixel x y).map fun x => y * 64 + x

/-! ## WellFormed: what it refuses -/

theorem test_wellFormed_default : defaultConfig.wellFormed = true := by decide
theorem test_wellFormed_refuses_low_ceiling :
    ({ defaultConfig with programCeiling := 0x1FF } : Config).wellFormed = false := by decide
theorem test_wellFormed_refuses_high_ceiling :
    ({ defaultConfig with programCeiling := 0x1001 } : Config).wellFormed = false := by decide
theorem test_wellFormed_ceiling_bounds :
    ({ defaultConfig with programCeiling := 0x200 } : Config).wellFormed = true ∧
    ({ defaultConfig with programCeiling := 0x1000 } : Config).wellFormed = true := by decide

/-! ## Decoding: words written out from the encodings of 41_control_flow.md to 45_keypad_timer.md -/

theorem test_decode_control_flow :
    decode 0b0000000011101110#16 = .known .ret ∧
    decode 0b0001001100000000#16 = .known (.jp 0x300#12) ∧
    decode 0b0010101010111100#16 = .known (.call 0xABC#12) ∧
    decode 0b0011010101000010#16 = .known (.seImm 0x5#4 0x42#8) ∧
    decode 0b0100001100010000#16 = .known (.sneImm 0x3#4 0x10#8) ∧
    decode 0b0101000100100000#16 = .known (.seReg 0x1#4 0x2#4) ∧
    decode 0b1001000100100000#16 = .known (.sneReg 0x1#4 0x2#4) ∧
    decode 0b1011111111111111#16 = .known (.jpV0 0xFFF#12) := by decide
theorem test_decode_immediates :
    decode 0b0110101001111011#16 = .known (.ldImm 0xA#4 0x7B#8) ∧
    decode 0b0111000111111111#16 = .known (.addImm 0x1#4 0xFF#8) ∧
    decode 0b1100000000001111#16 = .known (.rnd 0x0#4 0x0F#8) := by decide
theorem test_decode_alu :
    decode 0b1000000100100000#16 = .known (.ldReg 0x1#4 0x2#4) ∧
    decode 0b1000000100100001#16 = .known (.or 0x1#4 0x2#4) ∧
    decode 0b1000000100100010#16 = .known (.and 0x1#4 0x2#4) ∧
    decode 0b1000000100100011#16 = .known (.xor 0x1#4 0x2#4) ∧
    decode 0b1000000000010100#16 = .known (.addReg 0x0#4 0x1#4) ∧
    decode 0b1000111100010101#16 = .known (.sub 0xF#4 0x1#4) ∧
    decode 0b1000000000010110#16 = .known (.shr 0x0#4 0x1#4) ∧
    decode 0b1000000000010111#16 = .known (.subn 0x0#4 0x1#4) ∧
    decode 0b1000000000011110#16 = .known (.shl 0x0#4 0x1#4) := by decide
theorem test_decode_index_display :
    decode 0b1010000100100011#16 = .known (.ldI 0x123#12) ∧
    decode 0b1111001000011110#16 = .known (.addIVx 0x2#4) ∧
    decode 0b1111001000101001#16 = .known (.ldFVx 0x2#4) ∧
    decode 0b1111101000110011#16 = .known (.ldBVx 0xA#4) ∧
    decode 0b1111001001010101#16 = .known (.ldMemVx 0x2#4) ∧
    decode 0b1111001001100101#16 = .known (.ldVxMem 0x2#4) ∧
    decode 0b0000000011100000#16 = .known .cls ∧
    decode 0b1101000011110001#16 = .known (.drw 0x0#4 0xF#4 0x1#4) := by decide
theorem test_decode_keypad_timer :
    decode 0b1110010110011110#16 = .known (.skp 0x5#4) ∧
    decode 0b1110010110100001#16 = .known (.sknp 0x5#4) ∧
    decode 0b1111001100000111#16 = .known (.ldVxDt 0x3#4) ∧
    decode 0b1111001100001010#16 = .known (.ldVxK 0x3#4) ∧
    decode 0b1111001100010101#16 = .known (.ldDtVx 0x3#4) ∧
    decode 0b1111010000011000#16 = .known (.ldStVx 0x4#4) := by decide
/-- F7 to F12 of 95_test_vectors.md. -/
theorem test_decode_undefined :
    [0x0000#16, 0x0123#16, 0x5121#16, 0x8128#16, 0x812F#16, 0x9121#16, 0xE19F#16, 0xF100#16, 0xF166#16].all
      (fun w => decide (decode w = .undefined w)) = true := by decide
theorem test_decodeBytes :
    decodeBytes [0x13#8, 0x00#8, 0xFF#8] = .ok (.jp 0x300#12, [0xFF#8]) ∧
    decodeBytes [0x13#8] = .error .truncated ∧ decodeTableWord 16 0x1300 = some (.jp 0x300#12) ∧
    decodeTableWord 32 0x1300 = none := by decide

/-! ## Fetch (95_test_vectors.md F1 to F8) -/

theorem test_fetch_odd : statusAfter (fresh.setPc 0x201#16) 0x602A =
    some (.halted .addressOutOfRange 0x201#16 none) := by decide
theorem test_fetch_odd_permissive : (after (freshOther.setPc 0x201#16) 0x602A).map (fun t => (t.getV 0, t.pc)) =
    some (0x2A#8, 0x203#16) := by decide
theorem test_fetch_reserved : statusAfter (fresh.setPc 0x1FE#16) 0x1200 =
    some (.halted .addressOutOfRange 0x1FE#16 none) := by decide
theorem test_fetch_top : (after (fresh.setPc 0xFFE#16) 0x1200).map (·.pc) = some 0x200#16 ∧
    statusAfter (freshOther.setPc 0xFFF#16) 0 = some (.halted .addressOutOfRange 0xFFF#16 none) ∧
    statusAfter (fresh.setPc 0x1000#16) 0 = some (.halted .addressOutOfRange 0x1000#16 none) := by decide
theorem test_unknown_opcode : statusAfter fresh 0x0000 = some (.halted .unknownOpcode 0x200#16 (some 0x0000#16)) ∧
    statusAfter fresh 0x0123 = some (.halted .unknownOpcode 0x200#16 (some 0x0123#16)) := by decide

/-! ## Control flow (C1 to C20) -/

theorem test_ret_underflow : (after fresh 0x00EE).map (fun t => (t.status, t.sp)) =
    some (.halted .stackUnderflow 0x200#16 (some 0x00EE#16), 0#16) := by decide
theorem test_ret : (after twoCalls 0x00EE).map (fun t => (t.pc, t.sp, t.stack[1])) =
    some (0x402#16, 1#16, 0x402#16) := by decide
theorem test_jp : (after fresh 0x1300).map (·.pc) = some 0x300#16 := by decide
theorem test_call : (after { fresh with sp := 15#16 } 0x2400).map (fun t => (t.stack[15], t.sp, t.pc)) =
    some (0x202#16, 16#16, 0x400#16) := by decide
theorem test_call_overflow : (after { fresh with sp := 16#16 } 0x2400).map (fun t => (t.status, t.sp)) =
    some (.halted .stackOverflow 0x200#16 (some 0x2400#16), 16#16) := by decide
theorem test_se_imm : (after (fresh.setV 3 0x42#8) 0x3342).map (·.pc) = some 0x204#16 ∧
    (after (fresh.setV 3 0x41#8) 0x3342).map (·.pc) = some 0x202#16 := by decide
theorem test_sne_imm : (after (fresh.setV 3 0x41#8) 0x4342).map (·.pc) = some 0x204#16 ∧
    (after (fresh.setV 3 0x42#8) 0x4342).map (·.pc) = some 0x202#16 := by decide
theorem test_se_reg : (after (withRegs fresh [(1, 7#8), (2, 7#8)]) 0x5120).map (·.pc) = some 0x204#16 ∧
    (after (withRegs fresh [(1, 7#8), (2, 8#8)]) 0x5120).map (·.pc) = some 0x202#16 := by decide
theorem test_sne_reg : (after (withRegs fresh [(1, 7#8), (2, 8#8)]) 0x9120).map (·.pc) = some 0x204#16 ∧
    (after fresh 0x9110).map (·.pc) = some 0x202#16 := by decide
theorem test_jp_v0 : (after (fresh.setV 0 0xFF#8) 0xBFFF).map (·.pc) = some 0x10FE#16 ∧
    (after (withRegs fresh [(0, 0x10#8), (3, 0x20#8)]) 0xB300).map (·.pc) = some 0x310#16 := by decide

/-! ## Registers and ALU (A1 to A30) -/

theorem test_ld_imm : (after fresh 0x6A7B).map (fun t => (t.getV 0xA, t.pc)) = some (0x7B#8, 0x202#16) := by decide
theorem test_add_imm : (after (fresh.setV 1 0xFF#8) 0x7101).map (fun t => (t.getV 1, t.getV VF)) =
    some (0x00#8, 0x00#8) := by decide
theorem test_add_imm_vf : (after (fresh.setV VF 0xFE#8) 0x7F05).map (·.getV VF) = some 0x03#8 := by decide
theorem test_ld_reg : (after (fresh.setV 2 0x33#8) 0x8120).map (·.getV 1) = some 0x33#8 := by decide
theorem test_or : (after (withRegs fresh [(1, 0xF0#8), (2, 0x0F#8), (0xF, 5#8)]) 0x8121).map
    (fun t => (t.getV 1, t.getV VF)) = some (0xFF#8, 5#8) := by decide
theorem test_and : (after (withRegs fresh [(1, 0xF3#8), (2, 0x3F#8)]) 0x8122).map (·.getV 1) = some 0x33#8 := by
  decide
theorem test_xor : (after (withRegs fresh [(1, 0xFF#8), (2, 0x0F#8)]) 0x8123).map (·.getV 1) = some 0xF0#8 ∧
    (after (fresh.setV 1 0x5A#8) 0x8113).map (·.getV 1) = some 0x00#8 := by decide
theorem test_add_reg : (after (withRegs fresh [(0, 0xFF#8), (1, 1#8)]) 0x8014).map
    (fun t => (t.getV 0, t.getV VF)) = some (0x00#8, 1#8) := by decide
theorem test_add_reg_vf : (after (withRegs fresh [(0xF, 0x10#8), (1, 0x20#8)]) 0x8F14).map (·.getV VF) = some 0#8 ∧
    (after (withRegs fresh [(0, 0x01#8), (0xF, 0xFF#8)]) 0x80F4).map (fun t => (t.getV 0, t.getV VF)) =
      some (0#8, 1#8) := by decide
theorem test_sub : (after (withRegs fresh [(0, 5#8), (1, 5#8)]) 0x8015).map (fun t => (t.getV 0, t.getV VF)) =
      some (0#8, 1#8) ∧
    (after (withRegs fresh [(0, 3#8), (1, 5#8)]) 0x8015).map (fun t => (t.getV 0, t.getV VF)) =
      some (0xFE#8, 0#8) := by decide
theorem test_sub_vf : (after (withRegs fresh [(0xF, 5#8), (1, 3#8)]) 0x8F15).map (·.getV VF) = some 1#8 := by decide
theorem test_shr : (after (withRegs fresh [(0, 0x80#8), (1, 3#8)]) 0x8016).map (fun t => (t.getV 0, t.getV VF)) =
    some (0x40#8, 0#8) := by decide
theorem test_shr_vy : (after (withRegs freshOther [(0, 0x80#8), (1, 3#8)]) 0x8016).map
    (fun t => (t.getV 0, t.getV VF)) = some (1#8, 1#8) := by decide
theorem test_subn : (after (withRegs fresh [(0, 3#8), (1, 5#8)]) 0x8017).map (fun t => (t.getV 0, t.getV VF)) =
      some (2#8, 1#8) ∧
    (after (withRegs fresh [(0, 5#8), (1, 3#8)]) 0x8017).map (fun t => (t.getV 0, t.getV VF)) =
      some (0xFE#8, 0#8) := by decide
theorem test_shl : (after (fresh.setV 0 0x81#8) 0x800E).map (fun t => (t.getV 0, t.getV VF)) =
    some (2#8, 1#8) := by decide
theorem test_shl_vy : (after (withRegs freshOther [(0, 1#8), (1, 0x80#8)]) 0x801E).map
    (fun t => (t.getV 0, t.getV VF)) = some (0#8, 1#8) := by decide
theorem test_rnd : (fresh.randomAnd 0xAB#8 0 0x0F#8).getV 0 = 0x0B#8 := by decide
theorem test_rnd_mask_zero : ∃ t, exec (.rnd 0 0x00#8) fresh = .next t ∧ t.getV 0 = 0x00#8 :=
  ⟨_, rfl, by simp [State.randomAnd]; rfl⟩

/-! ## Index and memory (M1 to M19) -/

theorem test_ld_i : (after fresh 0xA123).map (fun t => (t.i, t.pc)) = some (0x123#16, 0x202#16) := by decide
theorem test_add_i : (after (withRegs (fresh.setI 0xFFF#16) [(2, 1#8), (0xF, 0#8)]) 0xF21E).map
    (fun t => (t.i, t.getV VF)) = some (0x000#16, 0#8) := by decide
theorem test_ld_f : (after (fresh.setV 2 0x0A#8) 0xF229).map (·.i) = some 0x032#16 ∧
    (after (fresh.setV 2 0xFF#8) 0xF229).map (·.i) = some 0x04B#16 := by decide
theorem test_ld_b : (after ((fresh.setI 0x300#16).setV 0xA 0x7B#8) 0xFA33).map
    (fun t => (t.readBytes 0x300 3, t.i)) = some ([1#8, 2#8, 3#8], 0x300#16) := by decide
theorem test_ld_b_reserved : (after (fresh.setI 0x1FF#16) 0xF033).map (fun t => (t.status, t.readByte 0x200)) =
    some (.halted .addressOutOfRange 0x200#16 (some 0xF033#16), 0xF0#8) := by decide
theorem test_ld_mem : (after ((withRegs fresh [(0, 0x11#8), (1, 0x22#8), (2, 0x33#8)]).setI 0x400#16) 0xF255).map
    (fun t => (t.readBytes 0x400 4, t.i)) = some ([0x11#8, 0x22#8, 0x33#8, 0#8], 0x400#16) := by decide
theorem test_ld_mem_advances : (after (freshOther.setI 0x400#16) 0xF255).map (·.i) = some 0x403#16 ∧
    statusAfter (fresh.setI 0xFF1#16) 0xFF55 = some (.halted .addressOutOfRange 0x200#16 (some 0xFF55#16)) := by decide
theorem test_ld_vx_mem : (after fresh 0xF465).map (fun t => (t.regBlock 5, t.i)) =
    some ([0xF0#8, 0x90#8, 0x90#8, 0x90#8, 0xF0#8], 0#16) := by decide
theorem test_ld_vx_mem_past_end : statusAfter (fresh.setI 0xFFF#16) 0xF165 =
    some (.halted .addressOutOfRange 0x200#16 (some 0xF165#16)) := by decide
/-- The canonical form: a byte written back to what construction left is not listed. -/
theorem test_memory_canonical : (fresh.writeBytes 0x300 [1#8]).mem = [(0x300, 1#8)] ∧
    ((fresh.writeBytes 0x300 [1#8]).writeBytes 0x300 [0#8]).mem = [] := by decide

/-! ## Display (D1 to D9) -/

theorem test_cls : (after { fresh with fb := Vector.replicate 32 (BitVec.allOnes 64) } 0x00E0).map
    (fun t => (t.fb == fresh.fb, t.pc)) = some (true, 0x202#16) := by decide
theorem test_drw : (after (fresh.setI 0x019#16) 0xD015).map
    (fun t => (onPixels [0, 1, 2, 3, 4, 5] t.fb, t.getV VF)) =
    some ([0, 1, 2, 3, 64, 128, 129, 130, 131, 195, 256, 257, 258, 259], 0#8) := by decide
theorem test_drw_wraps : (after ((withRegs (fresh.writeBytes 0x20C [0xE0#8, 0x90#8])
      [(0, 62#8), (1, 31#8)]).setI 0x20C#16) 0xD012).map (fun t => (onPixels [0, 31] t.fb, t.getV VF)) =
    some ([1, 62, 1984, 2046, 2047], 0#8) := by decide

/-! ## Keypad and timers (K1 to K9, T1 to T4) -/

theorem test_skp : (after ({ fresh with keys := keysA }.setV 5 0x1A#8) 0xE59E).map (·.pc) = some 0x204#16 ∧
    (after (fresh.setV 5 0x0A#8) 0xE59E).map (·.pc) = some 0x202#16 := by decide
theorem test_sknp : (after ({ fresh with keys := keysA }.setV 5 0x0A#8) 0xE5A1).map (·.pc) = some 0x202#16 ∧
    (after (fresh.setV 5 0x0A#8) 0xE5A1).map (·.pc) = some 0x204#16 := by decide
theorem test_ld_vx_dt : (after { fresh with dt := 0x3C#8 } 0xF307).map (·.getV 3) = some 0x3C#8 := by decide
theorem test_ld_vx_k : (after { fresh with keys := keys7C } 0xF30A).map (fun t => (t.getV 3, t.pc)) =
    some (7#8, 0x202#16) := by decide
theorem test_ld_vx_k_polls : (after (fresh.setV 3 9#8) 0xF30A).map (fun t => (t.getV 3, t.pc)) =
    some (9#8, 0x200#16) := by decide
theorem test_ld_dt : (after (fresh.setV 3 0x3C#8) 0xF315).map (fun t => (t.dt, t.st)) = some (0x3C#8, 0#8) := by decide
theorem test_ld_st : (after (fresh.setV 4 2#8) 0xF418).map (fun t => (t.dt, t.st, t.toneOn)) =
    some (0#8, 2#8, true) := by decide
theorem test_tick : (nextOf (step { fresh with st := 3#8, schedule := [.tick] })).map (fun t => (t.dt, t.st)) =
    some (0#8, 2#8) := by decide

/-! ## Load (L1 to L3) -/

/-- A machine of the small ceiling whose next action loads an image. -/
def loading (image : List Byte) : State :=
  { State.construct smallConfig with schedule := [.loadProgram image] }

theorem test_load_at_the_limit : (nextOf (step (loading [0x13#8, 0x00#8]))).map (·.mem) =
    some [(0x200, 0x13#8)] := by decide
theorem test_load_default_limit : programSpace defaultConfig = 1024 ∧
    programSpace { defaultConfig with programCeiling := 0x1000 } = 3584 := by decide
/-- L3: an empty image and one cycle halt with `UnknownOpcode` on the word `0x0000` at `0x200`. -/
theorem test_empty_run : (nextOf (step fresh)).map State.report =
    some (some (.unknownOpcode, 0x200#16, some 0x0000#16)) := by decide

/-! ## Witnesses: for every obligation with hypotheses, states and operands that meet them -/

/-- `JP 0x200` at the last fetchable address. -/
def jumpAtTop : State := (fresh.setPc 0xFFE#16).writeBytes 0xFFE [0x12#8, 0x00#8]

/-- A machine halted after a fetch at the largest `PC`, its stack full. -/
def haltedAtBounds : State :=
  { fresh with
    sp := 16#16, i := 0xFFF#16, stack := Vector.replicate 16 0x1000#16
    pc := 0x10FE#16, status := .halted .addressOutOfRange 0x10FE#16 none }

/-- A machine whose framebuffer has the four pixels of the first row of glyph 0 on. -/
def glyphRowOn : State := { fresh with fb := fresh.fb.set 0 0xF#64 }

/-- A machine about to perform one action. -/
def about (action : HostAction) (s : State) : State := { s with schedule := [action] }

theorem witness_EncodeOfDecodeIsTheWord : decode 0x8016#16 = .known (.shr 0x0#4 0x1#4) := by decide

theorem witness_DecoderAgreesWithOpcodeTable :
    decode 0xFF65#16 = .known (.ldVxMem 0xF#4) ∧
    0x8FFE#16 &&& (opcodeRow (.shl 0x0#4 0x0#4)).2.1 = (opcodeRow (.shl 0x0#4 0x0#4)).2.2 ∧
    ∀ i, decode 0x00EF#16 ≠ .known i := by
  refine ⟨by decide, by decide, fun i h => ?_⟩
  rw [show decode 0x00EF#16 = .undefined 0x00EF#16 by decide] at h
  cases h

theorem witness_FamilyZeroDefinesTwoWords :
    (0x00E0#16).toNat / 0x1000 = 0 ∧ (0x00EE#16).toNat / 0x1000 = 0 ∧
    (0x0000#16).toNat / 0x1000 = 0 ∧ (0x0FFF#16).toNat / 0x1000 = 0 ∧
    fresh.fetch = .ok 0x0000#16 ∧ (fresh.writeBytes 0x200 [0x0F#8, 0xFF#8]).fetch = .ok 0x0FFF#16 :=
  ⟨by decide, by decide, by decide, by decide, rfl, rfl⟩

theorem witness_FetchWordIsBigEndian : 0xFFF < 0xFFF + 1 ∧ 0xFFE + 1 ≤ 0xFFF := by decide

theorem witness_StepRunsDecodedInstruction :
    jumpAtTop.status = .running ∧ jumpAtTop.nextAction = .cycle ∧ jumpAtTop.pc.toNat + 1 ≤ 0xFFF ∧
    (jumpAtTop.config.pcPolicy = .strict → jumpAtTop.pc.toNat % 2 = 0 ∧ 0x200 ≤ jumpAtTop.pc.toNat) ∧
    decode (wordOfBytes (jumpAtTop.readByte jumpAtTop.pc.toNat) (jumpAtTop.readByte (jumpAtTop.pc.toNat + 1))) =
      .known (.jp 0x200#12) := by decide

theorem witness_WithFetchWordRunsTheWord :
    fresh.pc.toNat + 1 ≤ 0xFFF ∧
    (fresh.config.pcPolicy = .strict → fresh.pc.toNat % 2 = 0 ∧ 0x200 ≤ fresh.pc.toNat) ∧
    decodeTableWord 16 0xD015 = some (.drw 0x0#4 0x1#4 0x5#4) := by decide

/-- One state for each way a fetch fails: past the top, odd, below `0x200`. -/
theorem witness_FailingFetchHalts :
    (freshOther.setPc 0xFFF#16).status = .running ∧ (freshOther.setPc 0xFFF#16).nextAction = .cycle ∧
    0xFFF < (freshOther.setPc 0xFFF#16).pc.toNat + 1 ∧
    (fresh.setPc 0x201#16).status = .running ∧ (fresh.setPc 0x201#16).config.pcPolicy = .strict ∧
    (fresh.setPc 0x201#16).pc.toNat % 2 = 1 ∧ (fresh.setPc 0x1FE#16).pc.toNat < 0x200 := by decide

theorem witness_UndefinedWordHalts :
    fresh.status = .running ∧ fresh.nextAction = .cycle ∧ fresh.pc.toNat + 1 ≤ 0xFFF ∧
    (fresh.config.pcPolicy = .strict → fresh.pc.toNat % 2 = 0 ∧ 0x200 ≤ fresh.pc.toNat) ∧
    fresh.readByte fresh.pc.toNat = (0x0000#16 : Word).extractLsb' 8 8 ∧
    fresh.readByte (fresh.pc.toNat + 1) = (0x0000#16 : Word).extractLsb' 0 8 ∧
    ∀ i, decode 0x0000#16 ≠ .known i := by
  refine ⟨by decide, by decide, by decide, by decide, by decide, by decide, fun i h => ?_⟩
  rw [show decode 0x0000#16 = .undefined 0x0000#16 by decide] at h
  cases h

theorem witness_ErrorsArePrecise : ∃ t, fresh.status = .running ∧ step fresh = .next t ∧ t.status ≠ .running :=
  ⟨_, rfl, rfl, by decide⟩

/-- An instruction that completes and one that raises its own error. -/
theorem witness_InstructionsRaiseOnlyTheirOwnErrors :
    (∃ t, exec .cls fresh = .next t ∧ t.status = fresh.status) ∧
    ∃ t, exec .ret fresh = .next t ∧ t.status = .halted .stackUnderflow 0x200#16 (some 0x00EE#16) :=
  ⟨⟨_, rfl, rfl⟩, _, rfl, rfl⟩

/-- A halted machine about to run a cycle, about to tick, and about to take a keypad write, which goes on. -/
theorem witness_HaltedIsPermanent :
    haltedAtBounds.status ≠ .running ∧ haltedAtBounds.nextAction = .cycle ∧
    (about .tick haltedAtBounds).nextAction = .tick ∧
    ∃ t, step (about (.setKeys keysA) haltedAtBounds) = .next t ∧ t.keys = keysA :=
  ⟨by decide, by decide, by decide, _, rfl, rfl⟩

/-- Timers at the floor and above it. -/
theorem witness_TickCountsBothTimersDown :
    (about .tick { fresh with dt := 0xFF#8 }).status = .running ∧
    (about .tick { fresh with dt := 0xFF#8 }).nextAction = .tick := by decide

theorem witness_LastKeypadWriteWins :
    ({ fresh with schedule := [.setKeys keys7C, .setKeys keysA, .tick] } : State).schedule =
      .setKeys keys7C :: .setKeys keysA :: [.tick] := rfl

theorem witness_OnlyKeypadWritesChangeTheKeypad :
    ∃ t, step (about .tick fresh) = .next t ∧ ∀ k, (about .tick fresh).nextAction ≠ .setKeys k :=
  ⟨_, rfl, fun _ h => by cases h⟩

/-- An image exactly as long as the program space and one a byte longer. -/
theorem witness_LoadProgramCopiesTheImage :
    (loading [0x13#8, 0x00#8]).loadable = true ∧
    (loading [0x13#8, 0x00#8]).nextAction = .loadProgram [0x13#8, 0x00#8] ∧
    [0x13#8, 0x00#8].length ≤ (loading [0x13#8, 0x00#8]).config.programCeiling - 0x200 ∧
    (loading [1#8, 2#8, 3#8]).config.programCeiling - 0x200 < [1#8, 2#8, 3#8].length := by decide

theorem witness_LoadsThatAreRejected :
    (loading [1#8, 2#8, 3#8]).loadable = true ∧
    (loading [1#8, 2#8, 3#8]).config.programCeiling - 0x200 < [1#8, 2#8, 3#8].length ∧
    ({ loading [] with loadable := false } : State).nextAction = .loadProgram [] ∧
    (∃ t, step (loading []) = .next t) ∧ (∃ t, fresh.nextAction = .cycle ∧ step fresh = .next t) ∧
    ∃ t, step (about .tick { fresh with loadable := false }) = .next t :=
  ⟨by decide, by decide, by decide, ⟨_, rfl⟩, ⟨_, rfl, rfl⟩, _, rfl⟩

theorem witness_ConstructionMeetsTheInvariant :
    smallConfig.wellFormed = true ∧ otherConfig.wellFormed = true := by decide

/-- A machine after construction and one at the bounds of the invariant both meet it, and the first steps on. -/
theorem witness_StepKeepsTheInvariant :
    fresh.Inv ∧ haltedAtBounds.Inv ∧ ∃ t, step fresh = .next t := by
  refine ⟨⟨by decide, State.construct_mem_wf _, fun c h => (by cases h), by decide, by decide, by decide, by decide,
    ?_, ?_, ?_⟩, ⟨by decide, State.construct_mem_wf _, fun c h => (by cases h), by decide, by decide, by decide,
    by decide, ?_, ?_, ?_⟩, _, rfl⟩
  · intro _ _ _ h; cases h
  · intro _ _ _ h; cases h
  · intro _ _ h; cases h
  · intro _ _ _ h; cases h; decide
  · intro _ _ _ h; cases h; rfl
  · intro _ _ h; cases h; rfl

theorem witness_InvariantStatesNeverFault : haltedAtBounds.Inv ∧ fresh.Inv :=
  ⟨witness_StepKeepsTheInvariant.2.1, witness_StepKeepsTheInvariant.1⟩

theorem witness_NoStepChangesTheReservedRegion :
    ∃ t, step (fresh.withFetchWord 16 0x6A7B) = .next t ∧ 0x1FF < 0x200 := ⟨_, rfl, by decide⟩

/-- A load and a store that change a byte. -/
theorem witness_MemoryChangesOnlyByLoadAndStores :
    (∃ t, step (loading [0x13#8]) = .next t ∧ t.readByte 0x200 ≠ (loading [0x13#8]).readByte 0x200) ∧
    ∃ t, exec (.ldMemVx 0x0#4) ((fresh.setV 0 1#8).setI 0x300#16) = .next t ∧
      t.readByte 0x300 ≠ ((fresh.setV 0 1#8).setI 0x300#16).readByte 0x300 :=
  ⟨⟨_, rfl, by decide⟩, _, rfl, by decide⟩

/-- A store, a register and a part it does not write, and the addresses just outside its bytes. -/
theorem witness_ExecWritesOnlyWhatTheAccessTableLists :
    (∃ t, exec (.ldMemVx 0x1#4) (fresh.setI 0x300#16) = .next t) ∧ writesReg (.ldMemVx 0x1#4) VF = false ∧
    ¬ writesPart fresh.config .index (.ldMemVx 0x1#4) ∧
    0x2FF < (fresh.setI 0x300#16).effAddr 0 ∧ (fresh.setI 0x300#16).effAddr (storedCount (.ldMemVx 0x1#4)) ≤ 0x302 := by
  refine ⟨⟨_, rfl⟩, by decide, ?_, by decide, by decide⟩
  show ¬ (false = true)
  decide

/-- Two stacks that differ above the one occupied entry, and a return. -/
theorem witness_StaleStackEntriesAreUnobservable :
    (∀ (k : Nat) (h : k < 16), k < ({ fresh with sp := 1#16 } : State).sp.toNat →
      (fresh.stack.set 1 0xABC#16)[k] = ({ fresh with sp := 1#16 } : State).stack[k]) ∧
    ∃ t, exec .ret { fresh with sp := 1#16 } = .next t := by
  refine ⟨?_, _, rfl⟩
  decide

theorem witness_RetReturnsToTheTopEntry :
    (1 ≤ ({ fresh with sp := 1#16 } : State).sp.toNat ∧ ({ fresh with sp := 1#16 } : State).sp.toNat ≤ 16) ∧
    (1 ≤ haltedAtBounds.sp.toNat ∧ haltedAtBounds.sp.toNat ≤ 16) := by decide

theorem witness_CallPushesTheReturnAddress :
    fresh.sp.toNat < 16 ∧ ({ fresh with sp := 15#16 } : State).sp.toNat < 16 ∧
    (0 : Nat) ≠ ({ fresh with sp := 15#16 } : State).sp.toNat := by decide

theorem witness_StackErrorsHalt : fresh.sp.toNat = 0 ∧ haltedAtBounds.sp.toNat = 16 := by decide

theorem witness_StackPointerAboveSixteenFaults : 16 < ({ fresh with sp := 17#16 } : State).sp.toNat := by decide

theorem witness_CallThenRetReturnsAfterTheCall : ({ fresh with sp := 15#16 } : State).sp.toNat < 16 := by decide

theorem witness_SeventeenthCallOverflows :
    (List.replicate 16 (0x200#12 : Addr)).length = 16 ∧ fresh.sp.toNat = 0 := by decide

theorem witness_RegisterSkips : (0xF#4 : RegIdx) = VF := by decide

theorem witness_AddRegGivesSumAndCarry : (0xE#4 : RegIdx) ≠ VF := by decide

theorem witness_SubtractionsGiveDifferenceAndNotBorrow : (0x0#4 : RegIdx) ≠ VF := by decide

/-- Both values of `SHIFT_SOURCE`, with the operand each shifts. -/
theorem witness_ShiftsMoveOneBitAndKeepTheDroppedBit :
    (fresh.config.shiftSource = .vx → 0x81#8 = (withRegs fresh [(0, 0x81#8), (1, 3#8)]).getV 0) ∧
    (freshOther.config.shiftSource = .vy → 3#8 = (withRegs freshOther [(0, 0x81#8), (1, 3#8)]).getV 1) ∧
    fresh.config.shiftSource = .vx ∧ freshOther.config.shiftSource = .vy ∧ (0x0#4 : RegIdx) ≠ VF := by decide

theorem witness_RndMasksTheRandomByte : ∃ t, t = fresh.randomAnd 0xFF#8 0x0#4 0x0F#8 := ⟨_, rfl⟩

/-- The lowest and the highest `I` a store of three digits admits. -/
theorem witness_LdBStoresTheDecimalDigits :
    0x200 ≤ (fresh.setI 0x200#16).i.toNat ∧ (fresh.setI 0x200#16).i.toNat + 2 ≤ 0xFFF ∧
    0x200 ≤ (fresh.setI 0xFFD#16).i.toNat ∧ (fresh.setI 0xFFD#16).i.toNat + 2 ≤ 0xFFF := by decide

theorem witness_StoreBlockWritesTheRegisters :
    0x200 ≤ (fresh.setI 0x200#16).i.toNat ∧ (fresh.setI 0x200#16).i.toNat + (0x0#4 : RegIdx).toNat ≤ 0xFFF ∧
    0x200 ≤ (fresh.setI 0xFF0#16).i.toNat ∧ (fresh.setI 0xFF0#16).i.toNat + VF.toNat ≤ 0xFFF := by decide

theorem witness_LoadBlockReadsTheRegisters :
    fresh.i.toNat + VF.toNat ≤ 0xFFF ∧ (fresh.setI 0xFF0#16).i.toNat + VF.toNat ≤ 0xFFF ∧
    (0x3#4 : RegIdx).toNat ≤ VF.toNat := by decide

/-- One state for each access that fails, at the bound it fails at. -/
theorem witness_FailingAccessesHalt :
    0xFFF < (fresh.setI 0xFFE#16).i.toNat + 2 ∧ (fresh.setI 0x1FF#16).i.toNat < 0x200 ∧
    0xFFF < (fresh.setI 0xFF1#16).i.toNat + VF.toNat ∧
    (0 < (0x3#4 : Nibble).toNat ∧ 0xFFF < (fresh.setI 0xFFE#16).i.toNat + (0x3#4 : Nibble).toNat - 1) := by decide

theorem witness_StoredCodeIsFetchedAsWritten :
    1 ≤ (0x1#4 : RegIdx).toNat ∧ (fresh.setI 0x202#16).i = fresh.pc + 2#16 ∧ 0x200 ≤ (fresh.setI 0x202#16).i.toNat ∧
    (fresh.setI 0x202#16).i.toNat + (0x1#4 : RegIdx).toNat ≤ 0xFFF ∧ (fresh.setI 0x202#16).i.toNat % 2 = 0 ∧
    ∃ t, exec (.ldMemVx 0x1#4) (fresh.setI 0x202#16) = .next t :=
  ⟨by decide, by decide, by decide, by decide, by decide, _, rfl⟩

/-- No rows, the last address a sprite row can have, a covered pixel that is on, and one that is not covered. -/
theorem witness_DrwTogglesCoveredPixelsAndReportsCollision :
    (0x0#4 : Nibble).toNat = 0 ∧ (fresh.setI 0xFFE#16).i.toNat + (0x2#4 : Nibble).toNat - 1 ≤ 0xFFF ∧
    SpriteCovers glyphRowOn 0x0#4 0x1#4 0x1#4 0 0 ∧ glyphRowOn.fb.pixel 0 0 = true ∧
    ¬ SpriteCovers glyphRowOn 0x0#4 0x1#4 0x0#4 0 0 ∧
    ¬ ∃ px py, px < 64 ∧ py < 32 ∧ SpriteCovers fresh 0x0#4 0x1#4 0x1#4 px py ∧ fresh.fb.pixel px py = true := by
  refine ⟨by decide, by decide, ⟨0, 0, by decide, by decide, by decide, by decide, by decide⟩, by decide, ?_, ?_⟩
  · rintro ⟨j, b, hj, _⟩
    exact absurd hj (by simp)
  · rintro ⟨px, py, _, hy, _, h⟩
    simp [fresh, State.reset, State.construct, Framebuffer.pixel, hy] at h

/-- A first draw that keeps both coordinates, with a covered pixel off before it. -/
theorem witness_DrawTwiceRestoresTheFramebuffer :
    fresh.i.toNat + (0x1#4 : Nibble).toNat - 1 ≤ 0xFFF ∧
    (∃ t, exec (.drw 0x0#4 0x1#4 0x1#4) fresh = .next t ∧ t.getV 0x0#4 = fresh.getV 0x0#4 ∧
      t.getV 0x1#4 = fresh.getV 0x1#4 ∧ t.getV VF = 0x00#8) ∧
    SpriteCovers fresh 0x0#4 0x1#4 0x1#4 0 0 ∧ fresh.fb.pixel 0 0 = false :=
  ⟨by decide, ⟨_, rfl, by decide, by decide, by decide⟩,
    ⟨0, 0, by decide, by decide, by decide, by decide, by decide⟩, by decide⟩

/-- Two draws of a glyph row over the pixels it covers: every hypothesis holds. -/
theorem witness_SecondDrawAlwaysCollides :
    glyphRowOn.i.toNat + (0x1#4 : Nibble).toNat - 1 ≤ 0xFFF ∧
    (∃ t u, exec (.drw 0x0#4 0x1#4 0x1#4) glyphRowOn = .next t ∧ t.getV 0x0#4 = glyphRowOn.getV 0x0#4 ∧
      t.getV 0x1#4 = glyphRowOn.getV 0x1#4 ∧ exec (.drw 0x0#4 0x1#4 0x1#4) t = .next u) ∧
    ∃ j, j < (0x1#4 : Nibble).toNat ∧ glyphRowOn.readByte (glyphRowOn.effAddr j) ≠ 0x00#8 :=
  ⟨by decide, ⟨_, _, rfl, by decide, by decide, rfl⟩, 0, by decide, by decide⟩

/-- A value above `0x0F` selects the key of its low nibble. -/
theorem witness_KeySkips : (0xA#4 : Nibble).toNat = ((fresh.setV 5 0x1A#8).getV 5).toNat % 16 := by decide

/-- Two keys pressed, and none. -/
theorem witness_KeyWaitStoresTheLeastKeyOrPolls :
    ({ fresh with keys := keys7C } : State).keyPressed 0x7#4 = true ∧
    (∀ j : Nibble, j.toNat < (0x7#4 : Nibble).toNat → ({ fresh with keys := keys7C } : State).keyPressed j = false) ∧
    ∀ k : Nibble, fresh.keyPressed k = false := by decide

/-- By R191 a second identical draw over a sprite whose covered pixels were all on before the first finds them off
(log 15). -/
theorem test_second_draw_can_clear_vf :
    ((nextOf (exec (.drw 0x0#4 0x1#4 0x1#4) glyphRowOn)).bind fun t =>
      nextOf (exec (.drw 0x0#4 0x1#4 0x1#4) t)).map (fun u => (u.getV VF, u.fb == glyphRowOn.fb)) =
    some (0x00#8, true) := by decide

end Sys2Proof.Tests
end

section
/-! Family 20_memory.md: the fetched word (R57), and what can change a byte of memory (R53). -/

namespace Sys2Proof.Machine

/-! ## The word a storing instruction was decoded from -/

/-- The fields of format FXK make up the word again (R81, R83). -/
theorem encRegByte_fields (w : Word) : encRegByte (opField w) (xField w) (kkField w) = w := by
  have hhi : opField w ++ xField w = w.extractLsb' 8 8 :=
    BitVec.extractLsb'_append_extractLsb'_eq_extractLsb' rfl
  rw [encRegByte, hhi]
  exact wordOfBytes_bytesOfWord w

/-- The instructions that store are the two of R53. -/
theorem storedCount_ne_zero {i : Instr} (h : storedCount i ≠ 0) : ∃ x, i = .ldBVx x ∨ i = .ldMemVx x := by
  cases i with
  | ldBVx x => exact ⟨x, .inl rfl⟩
  | ldMemVx x => exact ⟨x, .inr rfl⟩
  | _ => exact absurd rfl h

/-- Only family F decodes to an instruction that stores (R84). -/
theorem decodeFamilyF_of_decode_storing {w : Word} {i : Instr} (hd : decode w = .known i)
    (hi : storedCount i ≠ 0) : opField w = 0xF#4 ∧ decodeFamilyF w = .known i := by
  unfold decode decodeFamily0 decodeFamily8 decodeFamilyE at hd
  repeat' split at hd
  case h_16 hop => -- family F, left unsplit
    exact ⟨hop, hd⟩
  all_goals cases hd <;> exact absurd rfl hi

/-- A word that decodes to a storing instruction is the encoding of that instruction (R88 for R53's two). -/
theorem encode_of_decode_storing {w : Word} {i : Instr} (hd : decode w = .known i) (hi : storedCount i ≠ 0) :
    encode i = w := by
  obtain ⟨hop, hF⟩ := decodeFamilyF_of_decode_storing hd hi
  have hw := encRegByte_fields w
  unfold decodeFamilyF at hF
  split at hF <;> cases hF
  case h_7 hkk => -- `Fx33`
    rwa [hop, hkk] at hw
  case h_8 hkk => -- `Fx55`
    rwa [hop, hkk] at hw
  all_goals exact absurd rfl hi

/-! ## What executing an instruction can do to memory -/

/-- A raise commits nothing, so a committed computation leaves memory as its effect on the state does (R106). -/
theorem State.commit_map_keeps_memory {s t : State} {instr : Instr} {r : Except ErrorKind (List Byte)}
    {f : List Byte → State} (h : s.commit instr (r.map f) = .next t)
    (hf : ∀ bytes, Unchanged s (f bytes) .memory) : Unchanged s t .memory := by
  cases r with
  | error kind => cases h; exact fun _ => rfl
  | ok bytes => cases h; exact hf bytes

theorem execRet_keeps_memory {s t : State} (h : execRet s = .next t) : Unchanged s t .memory := by
  unfold execRet at h
  split at h
  · cases h; exact fun _ => rfl
  · split at h
    · rename_i target u hpop
      obtain ⟨_, _, rfl⟩ := State.pop?_eq_some hpop
      cases h; exact fun _ => rfl
    · cases h

theorem execCall_keeps_memory {nnn : Addr} {s t : State} (h : execCall nnn s = .next t) :
    Unchanged s t .memory := by
  unfold execCall at h
  split at h
  · cases h; exact fun _ => rfl
  · split at h
    · rename_i u hpush
      obtain ⟨_, rfl⟩ := State.push?_eq_some hpush
      cases h; exact fun _ => rfl
    · cases h

theorem execLdVxK_keeps_memory {x : RegIdx} {s t : State} (h : execLdVxK x s = .next t) :
    Unchanged s t .memory := by
  unfold execLdVxK at h
  split at h <;> (cases h; exact fun _ => rfl)

/-- An instruction that stores no byte leaves every byte of memory as it was (R39, column MEM). -/
theorem exec_keeps_memory {i : Instr} {s t : State} (hi : storedCount i = 0) (h : exec i s = .next t) :
    Unchanged s t .memory := by
  cases i with
  | ldBVx x => cases hi
  | ldMemVx x => cases hi
  | ret => exact execRet_keeps_memory h
  | call nnn => exact execCall_keeps_memory h
  | ldVxK x => exact execLdVxK_keeps_memory h
  | drw x y n => exact State.commit_map_keeps_memory h fun _ _ => rfl
  | ldVxMem x => exact State.commit_map_keeps_memory h fun _ _ => rfl
  | seImm | sneImm | seReg | sneReg | skp | sknp => cases h; exact State.readByte_skipIf s _
  | _ => cases h; exact fun _ => rfl

/-- What `exec` stores comes from one of the two storing instructions, the second half of R53. -/
theorem storing_of_exec_changes_byte {i : Instr} {s t : State} {a : Nat} (h : exec i s = .next t)
    (ha : t.readByte a ≠ s.readByte a) : storedCount i ≠ 0 :=
  fun hi => ha (exec_keeps_memory hi h a)

/-- A cycle that changes a byte has fetched the encoding of a storing instruction: a halt at the fetch or at the
decode changes `STATUS` alone. -/
theorem State.fetch_of_runCycle_changes_byte {s t : State} {a : Nat} (h : s.runCycle = .next t)
    (ha : t.readByte a ≠ s.readByte a) : ∃ i, s.fetch = .ok (encode i) ∧ storedCount i ≠ 0 := by
  obtain ⟨_, rfl⟩ | ⟨_, _, _, _, rfl⟩ | ⟨w, i, hf, hd, hx⟩ := State.runCycle_cases h
  · exact absurd rfl ha
  · exact absurd rfl ha
  · have hi := storing_of_exec_changes_byte hx ha
    exact ⟨i, by rw [hf, encode_of_decode_storing hd hi], hi⟩

/-- Settles O24: by the cases of a step, a tick and a keypad write leave memory alone, and a cycle stores only
through `Fx33` and `Fx55`. -/
theorem memoryChangesOnlyByLoadAndStores : Obligations.MemoryChangesOnlyByLoadAndStores := by
  refine ⟨fun s t a h ha => ?_, fun i s t a h ha => storedCount_ne_zero (storing_of_exec_changes_byte h ha)⟩
  obtain ⟨hact, _, hrun⟩ | ⟨_, _, rfl⟩ | ⟨_, _, rfl⟩ | ⟨image, hact, _⟩ := step_cases h
  · obtain ⟨i, hf, hi⟩ := State.fetch_of_runCycle_changes_byte hrun ha
    obtain ⟨x, rfl | rfl⟩ := storedCount_ne_zero hi
    · exact .inr ⟨hact, x, .inl hf⟩
    · exact .inr ⟨hact, x, .inr hf⟩
  · exact absurd rfl ha
  · exact absurd rfl ha
  · exact .inl ⟨image, hact⟩

/-! ## The fetched word -/

theorem State.fetchWord_past_top (s : State) {a : Nat} (h : 0xFFF < a + 1) :
    s.fetchWord a = .error .addressOutOfRange := if_pos h

theorem State.fetchWord_inside (s : State) {a : Nat} (h : a + 1 ≤ 0xFFF) :
    s.fetchWord a = .ok (wordOfBytes (s.readByte a) (s.readByte (a + 1))) := if_neg (Nat.not_lt.2 h)

/-- Settles O6, from the two branches of `FetchWord` and the value of a word made of two bytes. -/
theorem fetchWordIsBigEndian : Obligations.FetchWordIsBigEndian := fun s _ =>
  ⟨s.fetchWord_past_top, fun h => ⟨_, s.fetchWord_inside h, wordOfBytes_toNat _ _⟩⟩

end Sys2Proof.Machine
end

section
/-! Family 42_register_alu.md: the load and the addition of an immediate byte (R140 to R142). -/

namespace Sys2Proof.Machine

/-! ## Writing one register and going on to the next instruction -/

/-- The later of two writes to one register stands. -/
@[simp] theorem State.setV_setV (s : State) (x : RegIdx) (a b : Byte) : (s.setV x a).setV x b = s.setV x b := by
  simp [State.setV]

theorem State.setV_advance (s : State) (x : RegIdx) (b : Byte) : s.advance.setV x b = (s.setV x b).advance := rfl

/-- The frame of the instructions of this family that write no flag: no register but `Vx`, and no other part. -/
theorem State.advance_setV_frame (s : State) (x : RegIdx) (b : Byte) :
    KeepsRegsBut (· = x) s (s.setV x b).advance ∧ KeepsAllBut [.regs] s (s.setV x b).advance := by
  refine ⟨fun r hr => ?_, fun p hp => ?_, rfl, rfl, rfl, rfl, rfl⟩
  · rw [State.getV_advance, State.getV_setV_ne s b hr]
  · cases p with
    | regs => exact absurd (List.mem_singleton_self _) hp
    | index | delay | sound | framebuffer | draws => rfl
    | stack => exact ⟨rfl, rfl⟩
    | memory => exact State.readByte_setV s x b

/-! ## The two instructions -/

theorem exec_ldImm (x : RegIdx) (kk : Byte) (s : State) : exec (.ldImm x kk) s = .next (s.setV x kk).advance := rfl

theorem exec_addImm (x : RegIdx) (kk : Byte) (s : State) :
    exec (.addImm x kk) s = .next (s.setV x (s.getV x + kk)).advance := by
  rw [← sumByte_eq]; rfl

/-- Settles O37, from the read of the written register and the frame of a register write. -/
theorem ldImmLoadsTheByte : Obligations.LdImmLoadsTheByte := fun x kk s =>
  ⟨_, exec_ldImm x kk s, State.getV_setV_same s x kk, rfl, State.advance_setV_frame s x kk⟩

/-- Settles O38, from the read of the written register and the frame of a register write: an addition of bytes is
modulo 256. -/
theorem addImmWrapsWithoutAFlag : Obligations.AddImmWrapsWithoutAFlag := fun x kk s => by
  refine ⟨_, exec_addImm x kk s, ?_, rfl, State.advance_setV_frame s x _⟩
  rw [State.getV_advance, State.getV_setV_same, BitVec.toNat_add]

/-- Settles O39: the second addition reads what the first wrote and writes over it, and the sum of three bytes
associates. -/
theorem immediateAdditionsCompose : Obligations.ImmediateAdditionsCompose := fun x kk kk' s => by
  refine ⟨_, _, _, exec_addImm x kk s, exec_addImm x kk' _, exec_addImm x _ s, ?_⟩
  have hsum : BitVec.ofNat 8 ((kk.toNat + kk'.toNat) % 256) = kk + kk' :=
    BitVec.eq_of_toNat_eq (by simp)
  rw [hsum, State.getV_advance, State.getV_setV_same, State.setV_advance, State.setV_setV, BitVec.add_assoc]
  rfl

end Sys2Proof.Machine
end

section
/-! Family 43_index_memory.md: the load of the index register (R170). -/

namespace Sys2Proof.Machine

/-- The frame of the instructions that only write `I` and go on: no other part changes. -/
theorem State.advance_setI_frame (s : State) (w : Word) : KeepsAllBut [.index] s (s.setI w).advance := by
  refine ⟨fun p hp => ?_, rfl, rfl, rfl, rfl, rfl⟩
  cases p with
  | index => exact absurd (List.mem_singleton_self _) hp
  | delay | sound | framebuffer | draws => rfl
  | stack => exact ⟨rfl, rfl⟩
  | regs => exact State.getV_setI s w
  | memory => exact State.readByte_setI s w

theorem exec_ldI (nnn : Addr) (s : State) : exec (.ldI nnn) s = .next (s.setI (addrWord nnn)).advance := rfl

/-- Settles O45, from the zero-extension of an address and the frame of an index write: the address itself is not
checked. -/
theorem ldISetsTheIndex : Obligations.LdISetsTheIndex := fun nnn s =>
  ⟨_, exec_ldI nnn s, addrWord_toNat nnn, rfl, State.advance_setI_frame s _⟩

end Sys2Proof.Machine
end

section
/-! Family 44_display.md: clearing the framebuffer (R190). -/

namespace Sys2Proof.Machine

/-- The frame of the instructions that only write the framebuffer and go on: no other part changes. -/
theorem State.advance_setFb_frame (s : State) (f : Framebuffer) :
    KeepsAllBut [.framebuffer] s (s.setFb f).advance := by
  refine ⟨fun p hp => ?_, rfl, rfl, rfl, rfl, rfl⟩
  cases p with
  | framebuffer => exact absurd (List.mem_singleton_self _) hp
  | index | delay | sound | draws => rfl
  | stack => exact ⟨rfl, rfl⟩
  | regs => exact State.getV_setFb s f
  | memory => exact State.readByte_setFb s f

theorem exec_cls (s : State) : exec .cls s = .next (s.setFb Framebuffer.clear).advance := rfl

/-- Settles O53, from the pixels of a cleared framebuffer and the frame of a framebuffer write. -/
theorem clsTurnsEveryPixelOff : Obligations.ClsTurnsEveryPixelOff := fun s =>
  ⟨_, exec_cls s, Framebuffer.pixel_clear, rfl, State.advance_setFb_frame s _⟩

end Sys2Proof.Machine
end

section
/-! Family 60_exceptions.md: the timer tick (R230). -/

namespace Sys2Proof.Machine

/-- A scheduled tick of a running machine is enabled (R225) and goes on. -/
theorem step_tick {s : State} (hr : s.status = .running) (ha : s.nextAction = .tick) :
    step s = .next s.takeAction.tickTimers := by
  have hrun : s.takeAction.isRunning = true := decide_eq_true hr
  rw [step, ha]
  exact if_pos hrun

/-- Settles O14, from the step of a tick and the value of each counted-down timer. -/
theorem tickCountsBothTimersDown : Obligations.TickCountsBothTimersDown := fun s hr ha =>
  ⟨_, step_tick hr ha, countDown_toNat s.dt, countDown_toNat s.st, rfl⟩

end Sys2Proof.Machine
end

section
/-! Family 30_encoding.md: the decoder and the encoder are inverse to each other, and the decoder agrees with the opcode
table (R81 to R88). -/

namespace Sys2Proof

/-! ## Decode after encode -/

/-- Decoding an encoded instruction reads every operand back (R81 to R84), one family of the decoder at a time. -/
@[simp] theorem decode_encode (i : Instr) : decode (encode i) = .known i := by
  cases i with
  | cls | ret => decide
  | jp | call | ldI | jpV0 => simp [decode, encode]
  | seImm | sneImm | ldImm | addImm | rnd => simp [decode, encode]
  | seReg | sneReg | drw => simp [decode, encode]
  | ldReg | or | and | xor | addReg | sub | shr | subn | shl => simp [decode, encode, decodeFamily8]
  | skp | sknp => simp [decode, encode, decodeFamilyE]
  | ldVxDt | ldVxK | ldDtVx | ldStVx | addIVx | ldFVx | ldBVx | ldMemVx | ldVxMem =>
    simp [decode, encode, decodeFamilyF]

/-- Settles O1, by the cases of the instruction. -/
theorem decodeOfEncodeIsTheInstruction : Obligations.DecodeOfEncodeIsTheInstruction := decode_encode

/-! ## Encode after decode -/

/-- The fields of format FA make up the word again (R81, R83). -/
theorem encAddr_fields (w : Word) : encAddr (opField w) (nnnField w) = w :=
  (BitVec.extractLsb'_append_extractLsb'_eq_extractLsb' rfl).trans BitVec.extractLsb'_eq_self

/-- The fields of formats FXY and FXYN make up the word again (R81, R83). -/
theorem encRegReg_fields (w : Word) : encRegReg (opField w) (xField w) (yField w) (nField w) = w := by
  have hhi : opField w ++ xField w = w.extractLsb' 8 8 :=
    BitVec.extractLsb'_append_extractLsb'_eq_extractLsb' rfl
  have hmid : w.extractLsb' 8 8 ++ yField w = w.extractLsb' 4 12 :=
    BitVec.extractLsb'_append_extractLsb'_eq_extractLsb' rfl
  rw [encRegReg, hhi, hmid]
  exact (BitVec.extractLsb'_append_extractLsb'_eq_extractLsb' rfl).trans BitVec.extractLsb'_eq_self

theorem encode_of_decodeFamily0 {w : Word} {i : Instr} (h : decodeFamily0 w = .known i) : encode i = w := by
  unfold decodeFamily0 at h
  split at h
  · cases h; exact Eq.symm ‹_›
  · split at h <;> cases h
    exact Eq.symm ‹_›

theorem encode_of_decodeFamily8 {w : Word} {i : Instr} (hop : opField w = 0x8#4)
    (h : decodeFamily8 w = .known i) : encode i = w := by
  have hw := encRegReg_fields w
  unfold decodeFamily8 at h
  split at h <;> cases h <;> (rename_i hn; rwa [hop, hn] at hw)

theorem encode_of_decodeFamilyE {w : Word} {i : Instr} (hop : opField w = 0xE#4)
    (h : decodeFamilyE w = .known i) : encode i = w := by
  have hw := Machine.encRegByte_fields w
  unfold decodeFamilyE at h
  split at h <;> cases h <;> (rename_i hkk; rwa [hop, hkk] at hw)

theorem encode_of_decodeFamilyF {w : Word} {i : Instr} (hop : opField w = 0xF#4)
    (h : decodeFamilyF w = .known i) : encode i = w := by
  have hw := Machine.encRegByte_fields w
  unfold decodeFamilyF at h
  split at h <;> cases h <;> (rename_i hkk; rwa [hop, hkk] at hw)

/-- Decoding loses no bit of a defined word (R88), one family of the decoder at a time. -/
theorem encode_of_decode {w : Word} {i : Instr} (h : decode w = .known i) : encode i = w := by
  have hA := encAddr_fields w
  have hXK := Machine.encRegByte_fields w
  have hXY := encRegReg_fields w
  unfold decode at h
  split at h
  case h_1 hop => exact encode_of_decodeFamily0 h
  case h_9 hop => exact encode_of_decodeFamily8 hop h
  case h_15 hop => exact encode_of_decodeFamilyE hop h
  case h_16 hop => exact encode_of_decodeFamilyF hop h
  case h_2 hop | h_3 hop | h_11 hop | h_12 hop => cases h; rwa [hop] at hA
  case h_4 hop | h_5 hop | h_7 hop | h_8 hop | h_13 hop => cases h; rwa [hop] at hXK
  case h_14 hop => cases h; rwa [hop] at hXY
  case h_6 hop | h_10 hop =>
    split at h <;> cases h
    rename_i hn; rwa [hop, hn] at hXY
  case h_17 => cases h

/-- Settles O2, by the families of the decoder. -/
theorem encodeOfDecodeIsTheWord : Obligations.EncodeOfDecodeIsTheWord := fun _ _ => encode_of_decode

/-! ## The opcode table -/

/-- Every encoded instruction has the fixed bits of its row. -/
theorem encodingRow (i : Instr) : Laws.EncodingRow.Statement i := by
  cases i with
  | cls | ret => exact BitVec.and_allOnes
  | jp | call | ldI | jpV0 => exact Laws.encAddr_fixed_op _ _
  | seImm | sneImm | ldImm | addImm | rnd => exact Laws.encRegByte_fixed _ _ _
  | drw => exact Laws.encRegReg_fixed _ _ _ _
  | seReg | ldReg | or | and | xor | addReg | sub | shr | subn | shl | sneReg =>
    exact Laws.encRegReg_fixed_sub _ _ _ _
  | skp | sknp | ldVxDt | ldVxK | ldDtVx | ldStVx | addIVx | ldFVx | ldBVx | ldMemVx | ldVxMem =>
    exact Laws.encRegByte_fixed_sub _ _ _

/-- Two words that a mask makes equal agree in every field the mask covers. -/
theorem extractLsb'_eq_of_mask {w u mask : Word} {start len : Nat} (h : w &&& mask = u &&& mask)
    (hmask : mask.extractLsb' start len = BitVec.allOnes len) :
    w.extractLsb' start len = u.extractLsb' start len := by
  have := congrArg (BitVec.extractLsb' start len) h
  simpa only [BitVec.extractLsb'_and, hmask, BitVec.and_allOnes] using this

/-- The mask of the formats without sub-code covers the family selector. -/
theorem opField_of_match {w : Word} {op : Nibble} (h : w &&& 0xF000#16 = op ++ 0#12) : opField w = op :=
  (extractLsb'_eq_of_mask (h.trans (Laws.encAddr_fixed_op op 0#12).symm) (by decide)).trans
    (opField_encAddr op 0#12)

/-! A word with the fixed bits of a format is that format's encoding of its own operand fields. -/

theorem encAddr_of_match {w : Word} {op : Nibble} (h : w &&& 0xF000#16 = op ++ 0#12) :
    encAddr op (nnnField w) = w := by
  rw [← opField_of_match h]; exact encAddr_fields w

theorem encRegByte_of_match {w : Word} {op : Nibble} (h : w &&& 0xF000#16 = op ++ 0#12) :
    encRegByte op (xField w) (kkField w) = w := by
  rw [← opField_of_match h]; exact Machine.encRegByte_fields w

theorem encRegReg_of_match {w : Word} {op : Nibble} (h : w &&& 0xF000#16 = op ++ 0#12) :
    encRegReg op (xField w) (yField w) (nField w) = w := by
  rw [← opField_of_match h]; exact encRegReg_fields w

theorem encRegByte_of_match_sub {w : Word} {op : Nibble} {kk : Byte}
    (h : w &&& 0xF0FF#16 = op ++ 0#4 ++ kk) : encRegByte op (xField w) kk = w := by
  have hm := h.trans (Laws.encRegByte_fixed_sub op 0#4 kk).symm
  have hop : opField w = op := (extractLsb'_eq_of_mask hm (by decide)).trans (opField_encRegByte op 0#4 kk)
  have hkk : kkField w = kk := (extractLsb'_eq_of_mask hm (by decide)).trans (kkField_encRegByte op 0#4 kk)
  rw [← hop, ← hkk]; exact Machine.encRegByte_fields w

theorem encRegReg_of_match_sub {w : Word} {op n : Nibble} (h : w &&& 0xF00F#16 = op ++ 0#8 ++ n) :
    encRegReg op (xField w) (yField w) n = w := by
  have hm := h.trans (Laws.encRegReg_fixed_sub op 0#4 0#4 n).symm
  have hop : opField w = op := (extractLsb'_eq_of_mask hm (by decide)).trans (opField_encRegReg op 0#4 0#4 n)
  have hn : nField w = n := (extractLsb'_eq_of_mask hm (by decide)).trans (nField_encRegReg op 0#4 0#4 n)
  rw [← hop, ← hn]; exact encRegReg_fields w

/-- A word that matches a row is the encoding of an instruction of that row. -/
theorem encode_of_matches_row {w : Word} {j : Instr} (h : w &&& (opcodeRow j).2.1 = (opcodeRow j).2.2) :
    ∃ i, encode i = w ∧ opcodeRow i = opcodeRow j := by
  cases j with
  | cls => exact ⟨.cls, (BitVec.and_allOnes.symm.trans h).symm, rfl⟩
  | ret => exact ⟨.ret, (BitVec.and_allOnes.symm.trans h).symm, rfl⟩
  | jp => exact ⟨.jp _, encAddr_of_match h, rfl⟩
  | call => exact ⟨.call _, encAddr_of_match h, rfl⟩
  | ldI => exact ⟨.ldI _, encAddr_of_match h, rfl⟩
  | jpV0 => exact ⟨.jpV0 _, encAddr_of_match h, rfl⟩
  | seImm => exact ⟨.seImm _ _, encRegByte_of_match h, rfl⟩
  | sneImm => exact ⟨.sneImm _ _, encRegByte_of_match h, rfl⟩
  | ldImm => exact ⟨.ldImm _ _, encRegByte_of_match h, rfl⟩
  | addImm => exact ⟨.addImm _ _, encRegByte_of_match h, rfl⟩
  | rnd => exact ⟨.rnd _ _, encRegByte_of_match h, rfl⟩
  | drw => exact ⟨.drw _ _ _, encRegReg_of_match h, rfl⟩
  | seReg => exact ⟨.seReg _ _, encRegReg_of_match_sub h, rfl⟩
  | ldReg => exact ⟨.ldReg _ _, encRegReg_of_match_sub h, rfl⟩
  | or => exact ⟨.or _ _, encRegReg_of_match_sub h, rfl⟩
  | and => exact ⟨.and _ _, encRegReg_of_match_sub h, rfl⟩
  | xor => exact ⟨.xor _ _, encRegReg_of_match_sub h, rfl⟩
  | addReg => exact ⟨.addReg _ _, encRegReg_of_match_sub h, rfl⟩
  | sub => exact ⟨.sub _ _, encRegReg_of_match_sub h, rfl⟩
  | shr => exact ⟨.shr _ _, encRegReg_of_match_sub h, rfl⟩
  | subn => exact ⟨.subn _ _, encRegReg_of_match_sub h, rfl⟩
  | shl => exact ⟨.shl _ _, encRegReg_of_match_sub h, rfl⟩
  | sneReg => exact ⟨.sneReg _ _, encRegReg_of_match_sub h, rfl⟩
  | skp => exact ⟨.skp _, encRegByte_of_match_sub h, rfl⟩
  | sknp => exact ⟨.sknp _, encRegByte_of_match_sub h, rfl⟩
  | ldVxDt => exact ⟨.ldVxDt _, encRegByte_of_match_sub h, rfl⟩
  | ldVxK => exact ⟨.ldVxK _, encRegByte_of_match_sub h, rfl⟩
  | ldDtVx => exact ⟨.ldDtVx _, encRegByte_of_match_sub h, rfl⟩
  | ldStVx => exact ⟨.ldStVx _, encRegByte_of_match_sub h, rfl⟩
  | addIVx => exact ⟨.addIVx _, encRegByte_of_match_sub h, rfl⟩
  | ldFVx => exact ⟨.ldFVx _, encRegByte_of_match_sub h, rfl⟩
  | ldBVx => exact ⟨.ldBVx _, encRegByte_of_match_sub h, rfl⟩
  | ldMemVx => exact ⟨.ldMemVx _, encRegByte_of_match_sub h, rfl⟩
  | ldVxMem => exact ⟨.ldVxMem _, encRegByte_of_match_sub h, rfl⟩

/-- The decoder's other answer reports the word itself (R87), one family of the decoder at a time. -/
theorem eq_of_decode_undefined {w u : Word} (h : decode w = .undefined u) : u = w := by
  unfold decode decodeFamily0 decodeFamily8 decodeFamilyE decodeFamilyF at h
  repeat' split at h
  all_goals cases h
  all_goals rfl

/-- A word that is no instruction's is undefined, and the report is the word itself (R84, R87). -/
theorem decode_eq_undefined {w : Word} (h : ∀ i, decode w ≠ .known i) : decode w = .undefined w := by
  cases hd : decode w with
  | known i => exact absurd hd (h i)
  | undefined u => rw [eq_of_decode_undefined hd]

/-- Settles O3: a decoded word is an encoding, whose fixed bits are its row's, and a word that matches a row is an
encoding, which decodes. -/
theorem decoderAgreesWithOpcodeTable : Obligations.DecoderAgreesWithOpcodeTable := by
  refine ⟨fun w i h => ?_, fun w j h => ?_, fun w => decode_eq_undefined⟩
  · rw [← encode_of_decode h]; exact encodingRow i
  · obtain ⟨i, rfl, hrow⟩ := encode_of_matches_row h
    exact ⟨i, decode_encode i, hrow⟩

/-! ## Family 0 and samples -/

theorem decode_family0 {w : Word} (h : opField w = 0x0#4) : decode w = decodeFamily0 w := by
  simp [decode, h]

/-- The high nibble as a quotient is the family selector (R81). -/
theorem opField_eq_zero_of_small {w : Word} (h : w.toNat / 0x1000 = 0) : opField w = 0x0#4 := by
  apply BitVec.eq_of_toNat_eq
  rw [opField, BitVec.extractLsb'_toNat, Nat.shiftRight_eq_div_pow, h]
  rfl

/-- An undefined word halts the cycle that fetched it with itself on record (R104). -/
theorem haltsWith_unknownOpcode {s : Machine.State} {w : Word} (hf : s.fetch = .ok w)
    (hd : decode w = .undefined w) : Machine.HaltsWith s .unknownOpcode w s.runCycle := by
  rw [Machine.State.runCycle, hf]
  simp [hd, Machine.HaltsWith]

/-- Settles O4, by the branches of family 0. -/
theorem familyZeroDefinesTwoWords : Obligations.FamilyZeroDefinesTwoWords := by
  intro w hw
  have hd := decode_family0 (opField_eq_zero_of_small hw)
  refine ⟨fun h => ?_, fun h => ?_, fun hcls hret => ?_⟩
  · subst h; decide
  · subst h; decide
  · have hu : decode w = .undefined w := by simp [hd, decodeFamily0, hcls, hret]
    exact ⟨hu, fun s hf => haltsWith_unknownOpcode hf hu⟩

/-- Settles O5: each word is a closed term the decoder evaluates. -/
theorem sampleWordsDecode : Obligations.SampleWordsDecode := by
  unfold Obligations.SampleWordsDecode
  decide

end Sys2Proof
end

section
/-! Executing an instruction: what each instruction with a check does, and what every instruction leaves unchanged
(10_state.md R39, 60_exceptions.md R222, R224). -/

namespace Sys2Proof.Machine

/-! ## The instructions that can stop, one equation each -/

/-- RET (R120) by the value of `SP`. -/
theorem exec_ret (s : State) : exec .ret s =
    if s.sp.toNat = 0 then s.raiseIn .ret .stackUnderflow
    else if h : s.sp.toNat ≤ 16 then
      .next (State.setPc { s with sp := s.sp - 1#16 } (s.stack[s.sp.toNat - 1]'(by omega)))
    else .fault .stackPointerOutOfRange := by
  have hz : s.sp = 0#16 ↔ s.sp.toNat = 0 := BitVec.toNat_eq
  simp only [exec, execRet, State.pop?, hz]
  by_cases h0 : s.sp.toNat = 0
  · rw [if_pos h0, if_pos h0]
  · rw [if_neg h0, if_neg h0]
    by_cases h16 : s.sp.toNat ≤ 16
    · rw [dif_pos h16, dif_pos ⟨by omega, h16⟩]
    · rw [dif_neg h16, dif_neg (fun h => h16 h.2)]

/-- CALL (R122) by the value of `SP`. -/
theorem exec_call (nnn : Addr) (s : State) : exec (.call nnn) s =
    if s.sp.toNat = 16 then s.raiseIn (.call nnn) .stackOverflow
    else if h : s.sp.toNat < 16 then
      .next (State.setPc { s with stack := s.stack.set s.sp.toNat (s.pc + 2#16) h, sp := s.sp + 1#16 }
        (addrWord nnn))
    else .fault .stackPointerOutOfRange := by
  have hz : s.sp = 16#16 ↔ s.sp.toNat = 16 := BitVec.toNat_eq
  simp only [exec, execCall, State.push?, hz]
  by_cases h16 : s.sp.toNat = 16
  · rw [if_pos h16, if_pos h16]
  · rw [if_neg h16, if_neg h16]
    by_cases h : s.sp.toNat < 16
    · rw [dif_pos h, dif_pos h]
    · rw [dif_neg h, dif_neg h]

/-- The state after a completed DRW (R191). -/
def State.drawn (s : State) (x y : RegIdx) (n : Nibble) : State :=
  let d := drawSprite (s.getV x) (s.getV y) (s.readBytes s.i.toNat n.toNat) s.fb
  ((s.setFb d.1).setV VF (flagByte d.2)).advance

/-- DRW (R191) by its address check; with no rows there is no address to check (R192). -/
theorem exec_drw (x y : RegIdx) (n : Nibble) (s : State) : exec (.drw x y n) s =
    if n.toNat = 0 ∨ s.i.toNat + n.toNat ≤ 0x1000 then .next (s.drawn x y n)
    else s.raiseIn (.drw x y n) .addressOutOfRange := by
  simp only [exec, execDrw, State.loadBlock_eq, State.effAddr_zero]
  split <;> rfl

/-- LD B (R174) by its address checks. -/
theorem exec_ldBVx (x : RegIdx) (s : State) : exec (.ldBVx x) s =
    if 0x200 ≤ s.i.toNat ∧ s.i.toNat + 3 ≤ 0x1000 then
      .next (s.writeBytes s.i.toNat (decimalDigits (s.getV x))).advance
    else s.raiseIn (.ldBVx x) .addressOutOfRange := by
  simp only [exec, execLdBVx, State.storeBlock_eq, State.effAddr_zero, length_decimalDigits,
    Nat.succ_ne_zero, false_or]
  split <;> rfl

/-- LD [I] (R175) by its address checks. -/
theorem exec_ldMemVx (x : RegIdx) (s : State) : exec (.ldMemVx x) s =
    if 0x200 ≤ s.i.toNat ∧ s.i.toNat + (x.toNat + 1) ≤ 0x1000 then
      .next ((s.writeBytes s.i.toNat (s.regBlock (x.toNat + 1))).setI (s.indexAfterBlock x)).advance
    else s.raiseIn (.ldMemVx x) .addressOutOfRange := by
  simp only [exec, execLdMemVx, State.storeBlock_eq, State.effAddr_zero, State.length_regBlock,
    Nat.succ_ne_zero, false_or]
  split <;> rfl

/-- LD Vx, [I] (R176) by its address check. -/
theorem exec_ldVxMem (x : RegIdx) (s : State) : exec (.ldVxMem x) s =
    if s.i.toNat + (x.toNat + 1) ≤ 0x1000 then
      .next ((s.setBlock (s.readBytes s.i.toNat (x.toNat + 1))).setI (s.indexAfterBlock x)).advance
    else s.raiseIn (.ldVxMem x) .addressOutOfRange := by
  simp only [exec, execLdVxMem, State.loadBlock_eq, State.effAddr_zero, Nat.succ_ne_zero, false_or]
  split <;> rfl

theorem exec_ldVxK_of_key (x : RegIdx) {s : State} {k : Nat} (h : s.leastPressedKey = some k) :
    exec (.ldVxK x) s = .next (s.setV x (BitVec.ofNat 8 k)).advance := by
  simp [exec, execLdVxK, h]

/-- With no key pressed LD Vx, K (R204) changes nothing at all. -/
theorem exec_ldVxK_of_none (x : RegIdx) {s : State} (h : s.leastPressedKey = none) :
    exec (.ldVxK x) s = .next s := by
  simp [exec, execLdVxK, h]

/-- LD Vx, K (R204) always goes on, with a key stored or as it was. -/
theorem exec_ldVxK_cases (x : RegIdx) (s : State) :
    exec (.ldVxK x) s = .next s ∨ ∃ b, exec (.ldVxK x) s = .next (s.setV x b).advance := by
  cases hk : s.leastPressedKey with
  | none => exact .inl (exec_ldVxK_of_none x hk)
  | some k => exact .inr ⟨_, exec_ldVxK_of_key x hk⟩

/-! ## The stack pointer -/

theorem sub_one_toNat {w : Word} (h : w.toNat ≠ 0) : (w - 1#16).toNat = w.toNat - 1 :=
  BitVec.toNat_sub_of_le (Nat.one_le_iff_ne_zero.2 h)

theorem add_one_toNat {w : Word} (h : w.toNat < 16) : (w + 1#16).toNat = w.toNat + 1 :=
  BitVec.toNat_add_of_lt (show w.toNat + 1 < 2 ^ 16 by omega)

/-! ## Frames -/

/-- A frame, field by field: what an instruction keeps is read off the record it returns. -/
theorem keepsAllBut_of_fields {ps : List Part} {s t : State}
    (h : (.regs ∈ ps ∨ t.v = s.v) ∧ (.index ∈ ps ∨ t.i = s.i) ∧
      (.stack ∈ ps ∨ t.sp = s.sp ∧ t.stack = s.stack) ∧ (.delay ∈ ps ∨ t.dt = s.dt) ∧
      (.sound ∈ ps ∨ t.st = s.st) ∧ (.framebuffer ∈ ps ∨ t.fb = s.fb) ∧ (.memory ∈ ps ∨ t.mem = s.mem) ∧
      (.draws ∈ ps ∨ t.draws = s.draws) ∧ t.keys = s.keys ∧ t.status = s.status ∧ t.config = s.config ∧
      t.schedule = s.schedule ∧ t.loadable = s.loadable) : KeepsAllBut ps s t := by
  obtain ⟨hv, hi, hstack, hdt, hst, hfb, hmem, hdraws, hkeys, hstatus, hconfig, hsched, hload⟩ := h
  refine ⟨fun p hp => ?_, hkeys, hstatus, hconfig, hsched, hload⟩
  cases p with
  | regs => exact fun r => by rw [State.getV, State.getV, hv.resolve_left hp]
  | index => exact hi.resolve_left hp
  | stack => exact hstack.resolve_left hp
  | delay => exact hdt.resolve_left hp
  | sound => exact hst.resolve_left hp
  | framebuffer => exact hfb.resolve_left hp
  | memory => exact fun a => by rw [State.readByte, State.readByte, hmem.resolve_left hp, hconfig]
  | draws => exact hdraws.resolve_left hp

/-- The parts an instruction's row of the access table lists, as a list. -/
def writtenParts (c : Config) : Instr → List Part
  | .cls => [.framebuffer]
  | .ret | .call _ => [.stack]
  | .ldImm _ _ | .addImm _ _ | .ldReg _ _ | .or _ _ | .and _ _ | .xor _ _ | .addReg _ _ | .sub _ _ | .shr _ _
  | .subn _ _ | .shl _ _ | .ldVxDt _ | .ldVxK _ => [.regs]
  | .rnd _ _ => [.regs, .draws]
  | .drw _ _ _ => [.framebuffer, .regs]
  | .ldI _ | .addIVx _ | .ldFVx _ => [.index]
  | .ldDtVx _ => [.delay]
  | .ldStVx _ => [.sound]
  | .ldBVx _ => [.memory]
  | .ldMemVx _ => if c.lsAdvancesI then [.memory, .index] else [.memory]
  | .ldVxMem _ => if c.lsAdvancesI then [.regs, .index] else [.regs]
  | .jp _ | .seImm _ _ | .sneImm _ _ | .seReg _ _ | .sneReg _ _ | .jpV0 _ | .skp _ | .sknp _ => []

/-- An instruction that goes on raised an error of its own or kept every part its row does not list. -/
theorem exec_cases {i : Instr} {s t : State} (h : exec i s = .next t) :
    (∃ kind, ownError i kind ∧ s.raiseIn i kind = .next t) ∨ KeepsAllBut (writtenParts s.config i) s t := by
  cases i with
  | ret | call =>
    simp only [exec_ret, exec_call] at h
    split at h
    · exact .inl ⟨_, rfl, h⟩
    · split at h <;> cases h
      exact .inr (keepsAllBut_of_fields (by simp [writtenParts]))
  | drw | ldBVx =>
    simp only [exec_drw, exec_ldBVx] at h
    split at h
    · cases h; exact .inr (keepsAllBut_of_fields (by simp [writtenParts, State.drawn]))
    · exact .inl ⟨_, rfl, h⟩
  | ldMemVx | ldVxMem =>
    simp only [exec_ldMemVx, exec_ldVxMem] at h
    split at h
    · cases h
      cases hadv : s.config.lsAdvancesI <;>
        exact .inr (keepsAllBut_of_fields (by simp [writtenParts, hadv, State.indexAfterBlock]))
    · exact .inl ⟨_, rfl, h⟩
  | ldVxK x =>
    obtain hx | ⟨b, hx⟩ := exec_ldVxK_cases x s <;> cases hx.symm.trans h
    · exact .inr (keepsAllBut_of_fields (by simp))
    · exact .inr (keepsAllBut_of_fields (by simp [writtenParts]))
  | rnd => cases h; exact .inr (keepsAllBut_of_fields (by simp [writtenParts, State.randomAnd]))
  | _ => cases h; exact .inr (keepsAllBut_of_fields (by simp [writtenParts]))

/-- A raise changes no part: it commits nothing (R106). -/
theorem unchanged_of_raise {s t : State} {i : Instr} {kind : ErrorKind} (h : s.raiseIn i kind = .next t)
    (p : Part) : Unchanged s t p := by
  cases h
  cases p with
  | stack => exact ⟨rfl, rfl⟩
  | regs | memory => exact fun _ => rfl
  | index | delay | sound | framebuffer | draws => rfl

theorem exec_keeps_part {i : Instr} {s t : State} {p : Part} (h : exec i s = .next t)
    (hp : p ∉ writtenParts s.config i) : Unchanged s t p := by
  obtain ⟨_, _, hr⟩ | hk := exec_cases h
  · exact unchanged_of_raise hr p
  · exact hk.1 p hp

/-- The whole frame of an instruction that left `STATUS` alone. -/
theorem exec_keeps {i : Instr} {s t : State} (h : exec i s = .next t) (hs : t.status = s.status) :
    KeepsAllBut (writtenParts s.config i) s t := by
  obtain ⟨_, _, hr⟩ | hk := exec_cases h
  · refine ⟨fun p _ => unchanged_of_raise hr p, ?_⟩
    cases hr
    exact ⟨rfl, hs, rfl, rfl, rfl⟩
  · exact hk

/-- No instruction writes the keypad, the parameters or the host's inputs (R9, R35). -/
theorem exec_keeps_inputs {i : Instr} {s t : State} (h : exec i s = .next t) :
    t.keys = s.keys ∧ t.config = s.config ∧ t.schedule = s.schedule ∧ t.loadable = s.loadable := by
  obtain ⟨_, _, hr⟩ | ⟨_, hkeys, _, hrest⟩ := exec_cases h
  · cases hr; exact ⟨rfl, rfl, rfl, rfl⟩
  · exact ⟨hkeys, hrest⟩

theorem State.getV_readBytes_setBlock_above (s : State) {a n : Nat} {r : RegIdx} (h : n ≤ r.toNat) :
    (s.setBlock (s.readBytes a n)).getV r = s.getV r := by
  rw [State.getV_setBlock, dif_neg (by simpa using h)]

/-- Columns V and VF flag of the access table (R39). -/
theorem exec_keeps_reg {i : Instr} {s t : State} {r : RegIdx} (h : exec i s = .next t)
    (hr : writesReg i r = false) : t.getV r = s.getV r := by
  cases i with
  | ldImm | addImm | ldReg | or | and | xor | rnd | ldVxDt =>
    cases h; exact State.getV_setV_ne s _ (by simpa [writesReg] using hr)
  | ldVxK x =>
    obtain hx | ⟨b, hx⟩ := exec_ldVxK_cases x s <;> cases hx.symm.trans h
    · rfl
    · exact State.getV_setV_ne s b (by simpa [writesReg] using hr)
  | addReg | sub | shr | subn | shl =>
    simp only [writesReg, Bool.or_eq_false_iff, beq_eq_false_iff_ne] at hr
    cases h
    rw [State.getV_advance, State.getV_setResultAndFlag, if_neg hr.2, if_neg hr.1]
  | drw x y n =>
    rw [exec_drw] at h
    split at h <;> cases h
    · exact State.getV_setV_ne _ _ (by simpa [writesReg] using hr)
    · rfl
  | ldVxMem x =>
    rw [exec_ldVxMem] at h
    split at h <;> cases h
    · exact s.getV_readBytes_setBlock_above (by simpa [writesReg] using hr)
    · rfl
  | ldMemVx => exact exec_keeps_part (p := .regs) h (by simp only [writtenParts]; split <;> simp) r
  | _ => exact exec_keeps_part (p := .regs) h (by simp [writtenParts]) r

/-- Column MEM of the access table (R39, R60): an instruction stores only from `I` on, only as many bytes as its row
says, and only where the checks of R56 let it. -/
theorem exec_keeps_byte {i : Instr} {s t : State} {a : Nat} (h : exec i s = .next t)
    (ha : a < 0x200 ∨ a < s.effAddr 0 ∨ s.effAddr (storedCount i) ≤ a) : t.readByte a = s.readByte a := by
  simp only [State.effAddr] at ha
  cases i with
  | ldBVx x =>
    rw [exec_ldBVx] at h
    split at h <;> cases h
    · refine State.readByte_writeBytes_outside s _ _ a ?_
      simp only [storedCount, length_decimalDigits] at ha ⊢; omega
    · rfl
  | ldMemVx x =>
    rw [exec_ldMemVx] at h
    split at h <;> cases h
    · refine State.readByte_writeBytes_outside s _ _ a ?_
      simp only [storedCount, State.length_regBlock] at ha ⊢; omega
    · rfl
  | _ => exact exec_keeps_memory rfl h a

/-- Every part of the list is one the access table lists for the instruction. -/
theorem writesPart_of_mem {c : Config} {i : Instr} {p : Part} (h : p ∈ writtenParts c i) : writesPart c p i := by
  cases i with
  | cls => cases List.mem_singleton.1 h; exact .inl rfl
  | ret => cases List.mem_singleton.1 h; exact .inl rfl
  | call nnn => cases List.mem_singleton.1 h; exact .inr ⟨nnn, rfl⟩
  | ldImm x | addImm x | ldReg x | or x | and x | xor x | ldVxDt x | ldVxK x =>
    cases List.mem_singleton.1 h; exact ⟨x, beq_self_eq_true x⟩
  | addReg x | sub x | shr x | subn x | shl x => cases List.mem_singleton.1 h; exact ⟨VF, by simp [writesReg]⟩
  | rnd x kk =>
    obtain rfl | rfl := List.mem_pair.1 h
    · exact ⟨x, beq_self_eq_true x⟩
    · exact ⟨x, kk, rfl⟩
  | drw x y n =>
    obtain rfl | rfl := List.mem_pair.1 h
    · exact .inr ⟨x, y, n, rfl⟩
    · exact ⟨VF, rfl⟩
  | ldI | addIVx | ldFVx => cases List.mem_singleton.1 h; exact rfl
  | ldDtVx x | ldStVx x => cases List.mem_singleton.1 h; exact ⟨x, rfl⟩
  | ldBVx => cases List.mem_singleton.1 h; exact Nat.succ_ne_zero _
  | ldMemVx x =>
    simp only [writtenParts] at h
    split at h
    · obtain rfl | rfl := List.mem_pair.1 h
      · exact Nat.succ_ne_zero _
      · assumption
    · cases List.mem_singleton.1 h; exact Nat.succ_ne_zero _
  | ldVxMem x =>
    have hx : writesReg (.ldVxMem x) x = true := by simp [writesReg]
    simp only [writtenParts] at h
    split at h
    · obtain rfl | rfl := List.mem_pair.1 h
      · exact ⟨x, hx⟩
      · assumption
    · cases List.mem_singleton.1 h; exact ⟨x, hx⟩
  | _ => exact absurd h List.not_mem_nil

/-- Settles O25: what an instruction keeps, column by column. -/
theorem execWritesOnlyWhatTheAccessTableLists : Obligations.ExecWritesOnlyWhatTheAccessTableLists :=
  fun _ _ _ h =>
    ⟨fun _ => exec_keeps_reg h, fun _ hp => exec_keeps_part h (mt writesPart_of_mem hp),
      fun _ ha => exec_keeps_byte h (.inr ha), exec_keeps_inputs h⟩

/-! ## Errors -/

/-- Settles O12: what an instruction did not raise it completed, and then its frame holds `STATUS`. -/
theorem instructionsRaiseOnlyTheirOwnErrors : Obligations.InstructionsRaiseOnlyTheirOwnErrors := by
  intro i s t h
  obtain ⟨kind, hown, hr⟩ | ⟨_, _, hstatus, _⟩ := exec_cases h
  · exact .inr ⟨kind, hown, hr.symm⟩
  · exact .inl hstatus

/-- `RomTooLarge` is no instruction's error (R220). -/
theorem fatalError_of_ownError {i : Instr} {kind : ErrorKind} (h : ownError i kind) : fatalError kind = true := by
  cases i with
  | ret | call | drw | ldBVx | ldMemVx | ldVxMem => cases h; rfl
  | _ => cases h

/-- A cycle that halts a running machine changed `STATUS` alone, to the report of a fatal error (R106, R221). -/
theorem State.runCycle_precise {s t : State} (hr : s.status = .running) (h : s.runCycle = .next t)
    (ht : t.status ≠ .running) :
    ∃ kind word, fatalError kind = true ∧ (word = none → kind = .addressOutOfRange) ∧
      t = { s with status := .halted kind s.pc word } := by
  obtain ⟨_, rfl⟩ | ⟨_, u, _, _, rfl⟩ | ⟨_, i, _, _, hx⟩ := State.runCycle_cases h
  · exact ⟨_, _, rfl, fun _ => rfl, rfl⟩
  · exact ⟨_, some u, rfl, nofun, rfl⟩
  · obtain ⟨kind, hown, he⟩ | ⟨_, _, hstatus, _⟩ := exec_cases hx
    · cases he; exact ⟨kind, some (encode i), fatalError_of_ownError hown, nofun, rfl⟩
    · exact absurd (hstatus.trans hr) ht

/-- Settles O11: only a cycle can halt a running machine, and it does so precisely. -/
theorem errorsArePrecise : Obligations.ErrorsArePrecise := by
  intro s t hr h ht
  obtain ⟨_, _, hrun⟩ | ⟨_, _, rfl⟩ | ⟨_, _, rfl⟩ | ⟨_, _, _, _, rfl⟩ := step_cases h
  · exact State.runCycle_precise (s := s.takeAction.beginCycle) hr hrun ht
  · exact absurd hr ht
  · exact absurd hr ht
  · exact absurd hr ht

end Sys2Proof.Machine
end

section
/-! The invariant of reachable states (10_state.md sections 4 to 6, 10): one rule per operation that a running machine
performs, and what every step keeps. -/

namespace Sys2Proof.Machine

section Rules

variable {s : State} (hs : s.Inv)
include hs

/-! ## Operations that write no component the invariant bounds -/

theorem State.Inv.setV (x : RegIdx) (b : Byte) : (s.setV x b).Inv := { hs with }
theorem State.Inv.setBlock (bs : List Byte) : (s.setBlock bs).Inv := { hs with }
theorem State.Inv.setDt (b : Byte) : (s.setDt b).Inv := { hs with }
theorem State.Inv.setSt (b : Byte) : (s.setSt b).Inv := { hs with }
theorem State.Inv.setFb (f : Framebuffer) : (s.setFb f).Inv := { hs with }
theorem State.Inv.setKeys (k : Keypad) : (s.setKeys k).Inv := { hs with }
theorem State.Inv.tickTimers : s.tickTimers.Inv := { hs with }
theorem State.Inv.beginCycle : s.beginCycle.Inv := { hs with }
theorem State.Inv.takeAction : s.takeAction.Inv := { hs with }

/-! ## Operations that do -/

theorem State.Inv.setI {w : Word} (hw : w.toNat < 0x1000) : (s.setI w).Inv := { hs with i_bound := hw }

theorem State.Inv.writeBytes {a : Nat} {bs : List Byte} (hlo : 0x200 ≤ a) (hhi : a + bs.length ≤ 0x1000) :
    (s.writeBytes a bs).Inv :=
  { hs with
    mem_wf := Memory.writeList_wf hhi hs.mem_wf
    reserved_unwritten := fun c hc => (Memory.mem_writeList hc).elim hlo.trans (hs.reserved_unwritten c) }

/-- A raise reports its error at the `PC` of the failing instruction (R221). -/
theorem State.Inv.halted {kind : ErrorKind} {word : Option Word} (hkind : fatalError kind = true)
    (hword : word = none → kind = .addressOutOfRange) :
    State.Inv { s with status := .halted kind s.pc word } :=
  { hs with
    halt_fatal := fun _ _ _ h => by cases h; exact hkind
    halt_at_pc := fun _ _ _ h => by cases h; rfl
    halt_no_word := fun _ _ h => by cases h; exact hword rfl }

/-- The top entry comes off: the entries stay (R31). -/
theorem State.Inv.pop (h : s.sp.toNat ≠ 0) : State.Inv { s with sp := s.sp - 1#16 } := by
  refine { hs with sp_bound := (sub_one_toNat h).trans_le ?_ }
  have := hs.sp_bound
  omega

theorem State.Inv.push (h : s.sp.toNat < 16) {w : Word} (hw : w.toNat ≤ 0x1000) :
    State.Inv { s with stack := s.stack.set s.sp.toNat w h, sp := s.sp + 1#16 } := by
  refine { hs with sp_bound := (add_one_toNat h).trans_le h, stack_bound := fun k hk => ?_ }
  · show ((s.stack.set s.sp.toNat w h)[k]).toNat ≤ 0x1000
    rw [Vector.getElem_set]
    split
    · exact hw
    · exact hs.stack_bound k hk

/-! ## The program counter of a running machine

A halt names the `PC`, so a halted machine could not move it. -/

theorem State.Inv.setPc (hr : s.status = .running) {w : Word} (hw : w.toNat ≤ 0x10FE) : (s.setPc w).Inv :=
  { hs with
    pc_bound := hw
    halt_at_pc := fun _ _ _ h => by cases hr.symm.trans h }

/-- After a fetched instruction `PC` moves on by 2 (R28). -/
theorem State.Inv.advance (hr : s.status = .running) (hpc : s.pc.toNat + 1 ≤ 0xFFF) : s.advance.Inv :=
  hs.setPc hr (by rw [BitVec.toNat_add]; simp; omega)

theorem State.Inv.skipIf (hr : s.status = .running) (hpc : s.pc.toNat + 1 ≤ 0xFFF) (c : Bool) :
    (s.skipIf c).Inv := by
  cases c with
  | false => exact hs.advance hr hpc
  | true => exact hs.setPc hr (by rw [BitVec.toNat_add]; simp; omega)

end Rules

/-! ## Every step -/

/-- A fetched instruction keeps the invariant, whether it completes or raises. -/
theorem exec_inv {i : Instr} {s t : State} (hs : s.Inv) (hr : s.status = .running)
    (hpc : s.pc.toNat + 1 ≤ 0xFFF) (h : exec i s = .next t) : t.Inv := by
  have raised {kind : ErrorKind} (hkind : fatalError kind = true) (hx : s.raiseIn i kind = .next t) : t.Inv := by
    cases hx; exact hs.halted hkind nofun
  cases i with
  | ret =>
    rw [exec_ret] at h
    split at h
    · exact raised rfl h
    · split at h <;> cases h
      rename_i h0 _
      exact (hs.pop h0).setPc hr ((hs.stack_bound _ _).trans (by decide))
  | call nnn =>
    rw [exec_call] at h
    split at h
    · exact raised rfl h
    · split at h <;> cases h
      rename_i hroom
      have hnnn := nnn.isLt
      refine (hs.push hroom ?_).setPc hr ?_
      · rw [BitVec.toNat_add]; simp; omega
      · rw [addrWord_toNat]; omega
  | drw x y n =>
    rw [exec_drw] at h
    split at h
    · cases h; exact ((hs.setFb _).setV VF _).advance hr hpc
    · exact raised rfl h
  | ldBVx x =>
    rw [exec_ldBVx] at h
    split at h
    · rename_i ha
      cases h; exact (hs.writeBytes (bs := decimalDigits (s.getV x)) ha.1 ha.2).advance hr hpc
    · exact raised rfl h
  | ldMemVx x =>
    rw [exec_ldMemVx] at h
    split at h
    · rename_i ha
      cases h
      exact ((hs.writeBytes ha.1 (by simpa using ha.2)).setI (s.indexAfterBlock_bound x hs.i_bound)).advance hr hpc
    · exact raised rfl h
  | ldVxMem x =>
    rw [exec_ldVxMem] at h
    split at h
    · cases h
      exact ((hs.setBlock _).setI (s.indexAfterBlock_bound x hs.i_bound)).advance hr hpc
    · exact raised rfl h
  | ldVxK x =>
    obtain hx | ⟨b, hx⟩ := exec_ldVxK_cases x s <;> cases hx.symm.trans h
    · exact hs
    · exact (hs.setV x b).advance hr hpc
  | jp nnn => cases h; exact hs.setPc hr (by rw [addrWord_toNat]; have := nnn.isLt; omega)
  | jpV0 nnn =>
    cases h
    exact hs.setPc hr (by rw [State.offsetTarget_toNat]; have := nnn.isLt; have := (s.getV 0).isLt; omega)
  | seImm | sneImm | seReg | sneReg | skp | sknp => cases h; exact hs.skipIf hr hpc _
  | ldImm | addImm | ldReg | or | and | xor | ldVxDt => cases h; exact (hs.setV _ _).advance hr hpc
  | rnd x => cases h; exact { (hs.setV x _).advance hr hpc with }
  | addReg x | sub x | shr x | subn x | shl x => cases h; exact ((hs.setV x _).setV VF _).advance hr hpc
  | cls => cases h; exact (hs.setFb _).advance hr hpc
  | ldDtVx => cases h; exact (hs.setDt _).advance hr hpc
  | ldStVx => cases h; exact (hs.setSt _).advance hr hpc
  | ldI nnn => cases h; exact (hs.setI (by rw [addrWord_toNat]; exact nnn.isLt)).advance hr hpc
  | addIVx => cases h; exact (hs.setI (by rw [State.indexPlus_toNat]; omega)).advance hr hpc
  | ldFVx => cases h; exact (hs.setI (by rw [glyphAddress_toNat]; omega)).advance hr hpc

/-- A cycle of a running machine keeps the invariant. -/
theorem State.Inv.runCycle {s t : State} (hs : s.Inv) (hr : s.status = .running) (h : s.runCycle = .next t) :
    t.Inv := by
  obtain ⟨_, rfl⟩ | ⟨_, _, _, _, rfl⟩ | ⟨_, _, hf, _, hx⟩ := State.runCycle_cases h
  · exact hs.halted rfl fun _ => rfl
  · exact hs.halted rfl nofun
  · obtain ⟨_, hpc, _⟩ := State.fetch_eq_ok hf
    exact exec_inv hs hr hpc hx

/-- A program image that fits lies inside memory, since `PROGRAM_CEILING` does (R9, D24). -/
theorem State.Inv.image_fits {s : State} (hs : s.Inv) {n : Nat} (h : n ≤ s.config.programCeiling - 0x200) :
    0x200 + n ≤ 0x1000 := by
  have hwf := hs.config_wf
  simp only [Config.wellFormed, Bool.and_eq_true, decide_eq_true_eq] at hwf
  omega

/-- Settles O21, by the cases of a step and the rule of each operation it performs. -/
theorem stepKeepsTheInvariant : Obligations.StepKeepsTheInvariant := by
  intro s t hs h
  obtain ⟨_, hr, hrun⟩ | ⟨_, _, rfl⟩ | ⟨k, _, rfl⟩ | ⟨image, _, _, hfit, rfl⟩ := step_cases h
  · exact hs.takeAction.beginCycle.runCycle hr hrun
  · exact hs.takeAction.tickTimers
  · exact hs.takeAction.setKeys k
  · exact { hs.takeAction.writeBytes (bs := image) (Nat.le_refl 0x200) (hs.image_fits hfit) with }

/-- Settles O20: construction lists no byte and zeroes every bounded component. -/
theorem constructionMeetsTheInvariant : Obligations.ConstructionMeetsTheInvariant := fun c hc =>
  { config_wf := hc
    mem_wf := State.construct_mem_wf c
    reserved_unwritten := nofun
    i_bound := by simp [State.construct]
    sp_bound := by simp [State.construct]
    stack_bound := by simp [State.construct]
    pc_bound := by simp [State.construct]
    halt_fatal := nofun
    halt_at_pc := nofun
    halt_no_word := nofun }

/-! ## The model's own fault -/

/-- Only RET and CALL can fault, and only with `SP` above 16 (log 10). -/
theorem sp_above_of_exec_fault {i : Instr} {s : State} {f : Fault} (h : exec i s = .fault f) :
    16 < s.sp.toNat := by
  cases i with
  | ret | call =>
    simp only [exec_ret, exec_call] at h
    split at h
    · cases h
    · split at h
      · cases h
      · omega
  | drw | ldBVx | ldMemVx | ldVxMem =>
    simp only [exec_drw, exec_ldBVx, exec_ldMemVx, exec_ldVxMem] at h
    split at h <;> cases h
  | ldVxK x => obtain hx | ⟨_, hx⟩ := exec_ldVxK_cases x s <;> cases hx.symm.trans h
  | _ => cases h

/-- A step that faults is a cycle whose instruction faults. -/
theorem exec_fault_of_step_fault {s : State} {f : Fault} (h : step s = .fault f) :
    ∃ i, exec i s.takeAction.beginCycle = .fault f := by
  unfold step State.perform at h
  split at h
  · split at h
    · unfold State.runCycle at h
      split at h
      · cases h
      · split at h
        · cases h
        · exact ⟨_, h⟩
    · cases h
  · split at h <;> cases h
  · cases h
  · split at h
    · split at h <;> cases h
    · cases h

/-- Settles O22: `SP` is at most 16 in a state that meets the invariant. -/
theorem invariantStatesNeverFault : Obligations.InvariantStatesNeverFault := by
  intro s hs f h
  obtain ⟨_, hx⟩ := exec_fault_of_step_fault h
  exact Nat.not_lt.2 hs.takeAction.beginCycle.sp_bound (sp_above_of_exec_fault hx)

/-! ## The reserved region -/

/-- A cycle, in any state, leaves every byte below `0x200` alone (R52). -/
theorem State.runCycle_keeps_reserved {s t : State} (h : s.runCycle = .next t) {a : Nat} (ha : a < 0x200) :
    t.readByte a = s.readByte a := by
  obtain ⟨_, rfl⟩ | ⟨_, _, _, _, rfl⟩ | ⟨_, _, _, _, hx⟩ := State.runCycle_cases h
  · rfl
  · rfl
  · exact exec_keeps_byte hx (.inl ha)

/-- Settles O23: a cycle stores by checked writes only, and a load starts at `0x200`. -/
theorem noStepChangesTheReservedRegion : Obligations.NoStepChangesTheReservedRegion := by
  intro s t h a ha
  obtain ⟨_, _, hrun⟩ | ⟨_, _, rfl⟩ | ⟨_, _, rfl⟩ | ⟨image, _, _, _, rfl⟩ := step_cases h
  · exact State.runCycle_keeps_reserved (s := s.takeAction.beginCycle) hrun ha
  · rfl
  · rfl
  · exact State.readByte_writeBytes_outside s.takeAction 0x200 image a (.inl ha)

end Sys2Proof.Machine
end

section
/-! The cycle and the host's actions (40_cycle.md, 60_exceptions.md, 70_reset_and_hazards.md): one equation per action
of a step, and what construction leaves. -/

namespace Sys2Proof.Machine

/-! ## One equation per host action -/

theorem step_cycle {s : State} (hr : s.status = .running) (ha : s.nextAction = .cycle) :
    step s = s.takeAction.beginCycle.runCycle := by
  have hrun : s.takeAction.isRunning = true := decide_eq_true hr
  rw [step, ha]
  exact if_pos hrun

theorem step_setKeys {s : State} {k : Keypad} (ha : s.nextAction = .setKeys k) :
    step s = .next (s.takeAction.setKeys k) := by
  rw [step, ha]
  rfl

theorem State.loadProgram_too_large {s : State} {image : List Byte}
    (h : s.config.programCeiling - 0x200 < image.length) : s.loadProgram image = .error .romTooLarge := if_pos h

theorem State.loadProgram_fits {s : State} {image : List Byte}
    (h : image.length ≤ s.config.programCeiling - 0x200) :
    s.loadProgram image = .ok { s.writeBytes 0x200 image with loadable := false } := if_neg (Nat.not_lt.2 h)

theorem step_load {s : State} {image : List Byte} (hl : s.loadable = true)
    (ha : s.nextAction = .loadProgram image) (h : image.length ≤ s.config.programCeiling - 0x200) :
    step s = .next { s.takeAction.writeBytes 0x200 image with loadable := false } := by
  have hload := State.loadProgram_fits (s := s.takeAction) h
  simp [step, ha, State.perform, hl, hload]

theorem step_load_too_large {s : State} {image : List Byte} (hl : s.loadable = true)
    (ha : s.nextAction = .loadProgram image) (h : s.config.programCeiling - 0x200 < image.length) :
    step s = .refused .romTooLarge := by
  have hload := State.loadProgram_too_large (s := s.takeAction) h
  simp [step, ha, State.perform, hl, hload]

theorem step_load_too_late {s : State} {image : List Byte} (hl : s.loadable = false)
    (ha : s.nextAction = .loadProgram image) : step s = .refused .loadNotAdmitted := by
  simp [step, ha, State.perform, hl]

/-- A halted machine runs no cycle and no tick (R225). -/
theorem step_of_halted {s : State} (hr : s.status ≠ .running) (ha : s.nextAction = .cycle ∨ s.nextAction = .tick) :
    step s = .refused .machineHalted := by
  have hrun : s.takeAction.isRunning = false := decide_eq_false hr
  obtain ha | ha := ha <;> simp [step, ha, State.perform, hrun]

/-! ## The cycle -/

/-- Settles O7, from the checks a fetch makes. -/
theorem stepRunsDecodedInstruction : Obligations.StepRunsDecodedInstruction := fun s _ hr ha hb hp hd =>
  step_eq_exec hr ha (s.policyFaults_eq_false.2 hp) hb hd

/-- A fetch fails past the top of memory and where the policy refuses the address (R102). -/
theorem State.fetch_fails {s : State} (h : 0xFFF < s.pc.toNat + 1 ∨
    (s.config.pcPolicy = .strict ∧ (s.pc.toNat % 2 = 1 ∨ s.pc.toNat < 0x200))) :
    s.fetch = .error .addressOutOfRange := by
  rw [State.fetch]
  split
  · rfl
  · rename_i hp
    have hpolicy := s.policyFaults_eq_false.1 (Bool.eq_false_iff.2 hp)
    refine s.fetchWord_past_top (h.resolve_right ?_)
    rintro ⟨hstrict, hbad⟩
    have := hpolicy hstrict
    omega

/-- Settles O9: a failing fetch ends the cycle with a raise. -/
theorem failingFetchHalts : Obligations.FailingFetchHalts := by
  intro s hr ha h
  have hf : s.takeAction.beginCycle.fetch = .error .addressOutOfRange := State.fetch_fails h
  rw [step_cycle hr ha, State.runCycle, hf]
  rfl

/-- Settles O10: a word of no instruction is decoded as undefined, and the cycle ends with a raise. -/
theorem undefinedWordHalts : Obligations.UndefinedWordHalts := by
  intro s w hr ha hb hp hhi hlo hw
  have hf : s.takeAction.beginCycle.fetch = .ok w := by
    rw [State.fetch_of_checks (s := s.takeAction.beginCycle) (s.policyFaults_eq_false.2 hp) hb]
    simp only [State.beginCycle_pc, State.takeAction_pc, State.readByte_beginCycle, State.readByte_takeAction,
      hhi, hlo, wordOfBytes_bytesOfWord]
  rw [step_cycle hr ha]
  exact haltsWith_unknownOpcode hf (decode_eq_undefined hw)

/-! ## Words placed by the interface -/

/-- A table word that decodes is a word of at most 16 bits and decodes as that word. -/
theorem decode_of_decodeTableWord {nbits w : Nat} {i : Instr} (h : decodeTableWord nbits w = some i) :
    decode (tableWord nbits w) = .known i := by
  simp only [decodeTableWord, bytesOfWord, decodeBytes, wordOfBytes_bytesOfWord] at h
  split at h
  · cases h
  · cases hd : decode (tableWord nbits w) with
    | known j => simpa [hd] using h
    | undefined u => simp [hd] at h

theorem State.withFetchWord_inside (s : State) (nbits w : Nat) (h : s.pc.toNat + 1 ≤ 0xFFF) :
    s.withFetchWord nbits w =
      { s.writeBytes s.pc.toNat (bytesOfWord (tableWord nbits w)) with status := .running, schedule := [] } := by
  rw [State.withFetchWord, if_pos h]

/-- Settles O8: the two bytes read back are the word's. -/
theorem withFetchWordRunsTheWord : Obligations.WithFetchWordRunsTheWord := by
  intro s nbits w i hb hp hd
  have hhi := s.readByte_writeBytes_inside s.pc.toNat (bytesOfWord (tableWord nbits w)) 0 Nat.zero_lt_two
  have hlo := s.readByte_writeBytes_inside s.pc.toNat (bytesOfWord (tableWord nbits w)) 1 Nat.one_lt_two
  rw [s.withFetchWord_inside nbits w hb]
  refine step_eq_exec rfl rfl ?_ hb ?_
  · exact (State.policyFaults_eq_false _).2 hp
  · refine Eq.trans (congrArg decode ?_) (decode_of_decodeTableWord hd)
    exact (congrArg₂ wordOfBytes hhi hlo).trans (wordOfBytes_bytesOfWord _)

/-! ## Host actions -/

/-- Settles O13, by the cases of a step: a keypad write and a load leave `STATUS` alone. -/
theorem haltedIsPermanent : Obligations.HaltedIsPermanent := by
  refine fun s hr => ⟨step_of_halted hr, fun t h => ?_⟩
  obtain ⟨_, hrun, _⟩ | ⟨_, hrun, _⟩ | ⟨_, _, rfl⟩ | ⟨_, _, _, _, rfl⟩ := step_cases h
  · exact absurd hrun hr
  · exact absurd hrun hr
  · rfl
  · rfl

/-- Settles O15, from the step of a keypad write, twice. -/
theorem lastKeypadWriteWins : Obligations.LastKeypadWriteWins := by
  intro s k1 k2 rest hs
  have h1 : s.nextAction = .setKeys k1 := by simp [State.nextAction, hs]
  have ht : s.takeAction.setKeys k1 = { s with keys := k1, schedule := .setKeys k2 :: rest } := by
    simp [State.takeAction, State.setKeys, hs]
  exact ⟨_, _, (step_setKeys h1).trans (congrArg _ ht), rfl, step_setKeys rfl, rfl⟩

/-- A cycle writes neither the keypad nor the parameters nor the host's inputs (R9, R35). -/
theorem State.runCycle_keeps_inputs {s t : State} (h : s.runCycle = .next t) :
    t.keys = s.keys ∧ t.config = s.config ∧ t.schedule = s.schedule ∧ t.loadable = s.loadable := by
  obtain ⟨_, rfl⟩ | ⟨_, _, _, _, rfl⟩ | ⟨_, _, _, _, hx⟩ := State.runCycle_cases h
  · exact ⟨rfl, rfl, rfl, rfl⟩
  · exact ⟨rfl, rfl, rfl, rfl⟩
  · exact exec_keeps_inputs hx

/-- Settles O16, by the cases of a step. -/
theorem onlyKeypadWritesChangeTheKeypad : Obligations.OnlyKeypadWritesChangeTheKeypad := by
  intro s t h
  obtain ⟨_, _, hrun⟩ | ⟨_, _, rfl⟩ | ⟨k, ha, rfl⟩ | ⟨_, _, _, _, rfl⟩ := step_cases h
  · obtain ⟨hkeys, hconfig, _, _⟩ := State.runCycle_keeps_inputs hrun
    exact ⟨hconfig, fun _ => hkeys⟩
  · exact ⟨rfl, fun _ => rfl⟩
  · exact ⟨rfl, fun hno => absurd ha (hno k)⟩
  · exact ⟨rfl, fun _ => rfl⟩

/-- Settles O17, from the step of a load and the bytes read back. -/
theorem loadProgramCopiesTheImage : Obligations.LoadProgramCopiesTheImage := by
  refine fun s image hl ha => ⟨fun hfit => ?_, State.loadProgram_too_large⟩
  exact ⟨_, step_load hl ha hfit, rfl, s.readByte_writeBytes_inside 0x200 image,
    s.readByte_writeBytes_outside 0x200 image⟩

/-- Once a load comes too late, every later one does (R263). -/
theorem loadable_stays_false {u v : State} (hl : u.loadable = false) (h : step u = .next v) :
    v.loadable = false := by
  obtain ⟨_, _, hrun⟩ | ⟨_, _, rfl⟩ | ⟨_, _, rfl⟩ | ⟨_, _, _, _, rfl⟩ := step_cases h
  · obtain ⟨_, _, _, hloadable⟩ := State.runCycle_keeps_inputs hrun
    exact hloadable
  · exact hl
  · exact hl
  · rfl

/-- A cycle and a load end the time for loads (R263). -/
theorem loadable_ends {u v : State} (ha : u.nextAction = .cycle ∨ ∃ b, u.nextAction = .loadProgram b)
    (h : step u = .next v) : v.loadable = false := by
  obtain ⟨_, _, hrun⟩ | ⟨htick, _, _⟩ | ⟨_, hkeys, _⟩ | ⟨_, _, _, _, rfl⟩ := step_cases h
  · obtain ⟨_, _, _, hloadable⟩ := State.runCycle_keeps_inputs hrun
    exact hloadable
  · simp [htick] at ha
  · simp [hkeys] at ha
  · rfl

/-- Settles O18, from the steps that refuse a load and those after which every load comes too late. -/
theorem loadsThatAreRejected : Obligations.LoadsThatAreRejected := fun _ _ ha =>
  ⟨fun hl => step_load_too_large hl ha, fun hl => step_load_too_late hl ha, fun _ _ => loadable_ends,
    fun _ _ => loadable_stays_false⟩

/-! ## Construction -/

/-- The font is at `0x000`, so a glyph byte stands at its own offset (D10). -/
theorem initialByte_font (font : Font) (j : Nat) (h : j < 80) : initialByte font j = font[j] := by
  simp [initialByte, fontBase, h]

theorem initialByte_above_font (font : Font) {a : Nat} (h : 80 ≤ a) : initialByte font a = 0x00#8 := by
  simp [initialByte, fontBase, Nat.not_lt.2 h]

/-- Construction lists no byte, so every address reads as construction left it. -/
theorem State.construct_readByte (c : Config) (a : Nat) :
    (State.construct c).readByte a = initialByte c.font a := rfl

/-- Settles O19, component by component. -/
theorem constructionLeaves : Obligations.ConstructionLeaves := by
  refine fun c => ⟨fun j h => ?_, fun a h => ?_, fun r => ?_, rfl, rfl, rfl, fun k h => ?_, rfl, rfl,
    Framebuffer.pixel_clear, fun k => ?_, rfl, rfl, rfl⟩
  · rw [State.construct_readByte, initialByte_font c.font j h]
  · rw [State.construct_readByte, initialByte_above_font c.font h]
  · simp [State.getV, State.construct]
  · simp [State.construct]
  · simp [State.keyPressed, State.construct]

end Sys2Proof.Machine
end

section
/-! Family 41_control_flow.md: jumps, skips, calls and returns (R120 to R129), and the stack entries no instruction
observes (10_state.md R31). -/

namespace Sys2Proof.Machine

/-! ## Calls and returns that go on -/

theorem exec_ret_of_entry {s : State} (h : 1 ≤ s.sp.toNat ∧ s.sp.toNat ≤ 16) : exec .ret s =
    .next (State.setPc { s with sp := s.sp - 1#16 } (s.stack[s.sp.toNat - 1]'(by omega))) := by
  rw [exec_ret, if_neg (by omega), dif_pos h.2]

theorem exec_call_of_room (nnn : Addr) {s : State} (h : s.sp.toNat < 16) : exec (.call nnn) s =
    .next (State.setPc { s with stack := s.stack.set s.sp.toNat (s.pc + 2#16) h, sp := s.sp + 1#16 }
      (addrWord nnn)) := by
  rw [exec_call, if_neg (by omega), dif_pos h]

/-- Settles O27, from the popped state and the frame of RET. -/
theorem retReturnsToTheTopEntry : Obligations.RetReturnsToTheTopEntry := fun _ h =>
  ⟨_, exec_ret_of_entry h, rfl, sub_one_toNat (Nat.one_le_iff_ne_zero.1 h.1), rfl,
    exec_keeps (exec_ret_of_entry h) rfl⟩

/-- Settles O29, from the pushed state and the frame of CALL. -/
theorem callPushesTheReturnAddress : Obligations.CallPushesTheReturnAddress := by
  intro nnn s h
  refine ⟨_, exec_call_of_room nnn h, addrWord_toNat nnn, add_one_toNat h, ?_, fun k hk hne => ?_,
    exec_keeps (exec_call_of_room nnn h) rfl⟩
  · exact Vector.getElem_set_self h
  · exact Vector.getElem_set_ne h hk hne.symm

/-- Settles O30, from the first branch of RET and of CALL. -/
theorem stackErrorsHalt : Obligations.StackErrorsHalt := fun nnn s =>
  ⟨fun h => (exec_ret s).trans (if_pos h), fun h => (exec_call nnn s).trans (if_pos h)⟩

/-- Settles O31, from the last branch of RET and of CALL. -/
theorem stackPointerAboveSixteenFaults : Obligations.StackPointerAboveSixteenFaults := by
  intro nnn s h
  rw [exec_ret, exec_call, if_neg (by omega), dif_neg (by omega), if_neg (by omega), dif_neg (by omega)]
  exact ⟨rfl, rfl⟩

/-- Settles O32: the return pops the entry the call pushed. -/
theorem callThenRetReturnsAfterTheCall : Obligations.CallThenRetReturnsAfterTheCall := by
  intro nnn s h
  have hsp := add_one_toNat h
  refine ⟨_, _, exec_call_of_room nnn h, addrWord_toNat nnn, exec_ret_of_entry ?_, ?_, ?_, ?_⟩
  · show 1 ≤ (s.sp + 1#16).toNat ∧ (s.sp + 1#16).toNat ≤ 16
    omega
  · show (s.stack.set s.sp.toNat (s.pc + 2#16) h)[(s.sp + 1#16).toNat - 1] = s.pc + 2#16
    rw [Vector.getElem_set, if_pos (by omega)]
  · exact BitVec.add_sub_cancel s.sp 1#16
  · exact Vector.getElem_set_self h

/-! ## Many calls -/

theorem execAll_cons {i : Instr} {s t : State} (is : List Instr) (h : exec i s = .next t) :
    execAll (i :: is) s = execAll is t := by
  rw [execAll, h]

/-- Calls go on while the stack has room for all of them, one entry each. -/
theorem execAll_calls (targets : List Addr) (s : State) (h : s.sp.toNat + targets.length ≤ 16) :
    ∃ t, execAll (targets.map .call) s = .next t ∧ t.status = s.status ∧
      t.sp.toNat = s.sp.toNat + targets.length := by
  induction targets generalizing s with
  | nil => exact ⟨s, rfl, rfl, rfl⟩
  | cons nnn targets ih =>
    rw [List.length_cons] at h ⊢
    obtain ⟨u, hcall, _, husp, _, _, _, _, hustatus, _⟩ := callPushesTheReturnAddress nnn s (by omega)
    obtain ⟨t, ht, hstatus, htsp⟩ := ih u (by omega)
    exact ⟨t, (execAll_cons _ hcall).trans ht, hstatus.trans hustatus, by omega⟩

/-- Settles O33: sixteen calls fill the stack, and the next finds it full. -/
theorem seventeenthCallOverflows : Obligations.SeventeenthCallOverflows := by
  intro targets last s hlen hsp
  obtain ⟨t, ht, hstatus, htsp⟩ := execAll_calls targets s (by omega)
  have hfull : t.sp.toNat = 16 := by omega
  exact ⟨t, ht, hstatus, hfull, (stackErrorsHalt last t).2 hfull⟩

/-! ## Jumps and skips -/

/-- Settles O28, from the zero-extended address and the frame of JP. -/
theorem jpSetsThePc : Obligations.JpSetsThePc := fun nnn _ =>
  ⟨_, rfl, addrWord_toNat nnn, exec_keeps (i := .jp nnn) rfl rfl⟩

/-- Settles O36, from the unreduced sum and the frame of JP V0. -/
theorem jpV0AddsV0 : Obligations.JpV0AddsV0 := fun nnn s =>
  ⟨_, rfl, s.offsetTarget_toNat nnn, exec_keeps (i := .jpV0 nnn) rfl rfl⟩

/-- Settles O34, from the `PC` and the frame of a skip. -/
theorem immediateSkips : Obligations.ImmediateSkips := by
  refine fun x kk s => ⟨⟨_, rfl, ?_, exec_keeps (i := .seImm x kk) rfl (s.skipIf_status _)⟩,
    ⟨_, rfl, ?_, exec_keeps (i := .sneImm x kk) rfl (s.skipIf_status _)⟩⟩
  · simp only [State.skipIf_pc, beq_iff_eq]
  · simp only [State.skipIf_pc, bne_iff_ne]

/-- Settles O35, from the `PC` and the frame of a skip; with `x = y` the compared values are equal. -/
theorem registerSkips : Obligations.RegisterSkips := by
  refine fun x y s => ⟨⟨_, rfl, ?_, ?_, exec_keeps (i := .seReg x y) rfl (s.skipIf_status _)⟩,
    ⟨_, rfl, ?_, ?_, exec_keeps (i := .sneReg x y) rfl (s.skipIf_status _)⟩⟩
  · simp only [State.skipIf_pc, beq_iff_eq]
  · rintro rfl; simp
  · simp only [State.skipIf_pc, bne_iff_ne]
  · rintro rfl; simp

/-! ## Stack entries at or above `SP` -/

/-- The machine with another array of stack entries. -/
def State.withStack (s : State) (stack : Vector Word 16) : State := { s with stack := stack }

theorem State.skipIf_withStack (s : State) (stack : Vector Word 16) (c : Bool) :
    (s.withStack stack).skipIf c = (s.skipIf c).withStack stack := by cases c <;> rfl

/-- An instruction that does not write the stack does not read it either. -/
theorem exec_withStack {i : Instr} {s t : State} (stack : Vector Word 16)
    (hi : .stack ∉ writtenParts s.config i) (h : exec i s = .next t) :
    exec i (s.withStack stack) = .next (t.withStack stack) := by
  cases i with
  | ret | call => exact absurd (List.mem_singleton_self _) hi
  | seImm | sneImm | seReg | sneReg | skp | sknp =>
    cases h; exact congrArg Host.Outcome.next (s.skipIf_withStack stack _)
  | drw | ldBVx | ldMemVx | ldVxMem =>
    simp only [exec_drw, exec_ldBVx, exec_ldMemVx, exec_ldVxMem] at h ⊢
    split at h <;> cases h
    · exact if_pos ‹_›
    · exact if_neg ‹_›
  | ldVxK x =>
    cases hk : s.leastPressedKey with
    | none => cases (exec_ldVxK_of_none x hk).symm.trans h; exact exec_ldVxK_of_none x hk
    | some k => cases (exec_ldVxK_of_key x hk).symm.trans h; exact exec_ldVxK_of_key x hk
  | _ => cases h; rfl

/-- RET reads the top entry only, which is below `SP`. -/
theorem exec_ret_withStack {s t : State} {stack : Vector Word 16}
    (hagree : ∀ (k : Nat) (h : k < 16), k < s.sp.toNat → stack[k] = s.stack[k]) (h : exec .ret s = .next t) :
    exec .ret (s.withStack stack) = .next (t.withStack stack) ∧
      ∀ (k : Nat) (h : k < 16), k < t.sp.toNat → stack[k] = t.stack[k] := by
  rw [exec_ret] at h
  split at h
  · rename_i h0
    cases h; exact ⟨(exec_ret _).trans (if_pos h0), hagree⟩
  · rename_i h0
    split at h <;> cases h
    rename_i h16
    have hret := exec_ret_of_entry (s := s.withStack stack) ⟨Nat.one_le_iff_ne_zero.2 h0, h16⟩
    have htop : (s.withStack stack).stack[(s.withStack stack).sp.toNat - 1]'(by
        show s.sp.toNat - 1 < 16; omega) = s.stack[s.sp.toNat - 1] :=
      hagree (s.sp.toNat - 1) (by omega) (by omega)
    rw [htop] at hret
    refine ⟨hret, fun k hk hlt => hagree k hk ?_⟩
    have hsp : k < (s.sp - 1#16).toNat := hlt
    rw [sub_one_toNat h0] at hsp
    omega

/-- CALL writes the same entry into both stacks. -/
theorem exec_call_withStack {nnn : Addr} {s t : State} {stack : Vector Word 16}
    (hagree : ∀ (k : Nat) (h : k < 16), k < s.sp.toNat → stack[k] = s.stack[k])
    (h : exec (.call nnn) s = .next t) :
    ∃ stackT : Vector Word 16, exec (.call nnn) (s.withStack stack) = .next (t.withStack stackT) ∧
      ∀ (k : Nat) (h : k < 16), k < t.sp.toNat → stackT[k] = t.stack[k] := by
  rw [exec_call] at h
  split at h
  · rename_i hfull
    cases h; exact ⟨stack, (exec_call _ _).trans (if_pos hfull), hagree⟩
  · split at h <;> cases h
    rename_i hroom
    refine ⟨stack.set s.sp.toNat (s.pc + 2#16) hroom,
      exec_call_of_room nnn (s := s.withStack stack) hroom, fun k hk hlt => ?_⟩
    have hsp : k < (s.sp + 1#16).toNat := hlt
    rw [add_one_toNat hroom] at hsp
    show (stack.set s.sp.toNat (s.pc + 2#16) hroom)[k] = (s.stack.set s.sp.toNat (s.pc + 2#16) hroom)[k]
    rw [Vector.getElem_set, Vector.getElem_set]
    split
    · rfl
    · exact hagree k hk (by omega)

/-- Settles O26: RET reads below `SP` only, CALL writes alike, and the other instructions leave the stack alone. -/
theorem staleStackEntriesAreUnobservable : Obligations.StaleStackEntriesAreUnobservable := by
  intro i s t stack hagree h
  by_cases hi : .stack ∈ writtenParts s.config i
  · obtain rfl | ⟨nnn, rfl⟩ : i = .ret ∨ ∃ nnn, i = .call nnn := writesPart_of_mem hi
    · exact ⟨stack, exec_ret_withStack hagree h⟩
    · exact exec_call_withStack hagree h
  · obtain ⟨hsp, hstack⟩ : t.sp = s.sp ∧ t.stack = s.stack := exec_keeps_part h hi
    exact ⟨stack, exec_withStack stack hi h, by rw [hsp, hstack]; exact hagree⟩

end Sys2Proof.Machine
end

section
/-! Family 42_register_alu.md: what the instructions of two registers and RND compute (R143 to R152). -/

namespace Sys2Proof.Machine

/-! ## Results without a flag -/

/-- Settles O40: the result is read back from `Vx`, bit by bit. -/
theorem registerLogicWritesVxOnly : Obligations.RegisterLogicWritesVxOnly := by
  intro x y s
  have hframe (result : Byte) := s.advance_setV_frame x result
  refine ⟨⟨_, rfl, ?_, rfl, hframe _⟩, ⟨_, rfl, fun b => ?_, rfl, hframe _⟩, ⟨_, rfl, fun b => ?_, rfl, hframe _⟩,
    ⟨_, rfl, fun b => ?_, rfl, hframe _⟩⟩
  · exact s.getV_setV_same x _
  · rw [State.getV_advance, State.getV_setV_same, BitVec.getLsbD_or]
  · rw [State.getV_advance, State.getV_setV_same, BitVec.getLsbD_and]
  · rw [State.getV_advance, State.getV_setV_same, BitVec.getLsbD_xor]

/-- Settles O44, for the free random byte and for every byte in its place. -/
theorem rndMasksTheRandomByte : Obligations.RndMasksTheRandomByte := by
  refine fun x kk s => ⟨rfl, ?_⟩
  rintro r t rfl
  refine ⟨fun b => ?_, rfl, rfl, fun q hq => s.getV_setV_ne _ hq, keepsAllBut_of_fields (by simp [State.randomAnd])⟩
  have hx : (s.randomAnd r x kk).getV x = r &&& kk := s.getV_setV_same x _
  rw [hx, BitVec.getLsbD_and]

/-! ## A result and a flag -/

theorem flagByte_toNat (c : Bool) : (flagByte c).toNat = if c then 1 else 0 := by
  cases c <;> rfl

/-- What every instruction that ends in a result and a flag does (R108): the destination keeps the result unless it
is `VF`, which ends as the flag. -/
theorem State.advance_setResultAndFlag_spec (s : State) (x : RegIdx) (result flag : Byte) :
    (x ≠ VF → (s.setResultAndFlag x result flag).advance.getV x = result) ∧
    (s.setResultAndFlag x result flag).advance.getV VF = flag ∧
    KeepsRegsBut (fun r => r = x ∨ r = VF) s (s.setResultAndFlag x result flag).advance ∧
    KeepsAllBut [.regs] s (s.setResultAndFlag x result flag).advance := by
  refine ⟨fun hx => ?_, ?_, fun r hr => ?_, keepsAllBut_of_fields (by simp)⟩
  · rw [State.getV_advance, State.getV_setResultAndFlag, if_neg hx, if_pos rfl]
  · rw [State.getV_advance, State.getV_setResultAndFlag, if_pos rfl]
  · obtain ⟨hx, hVF⟩ := not_or.1 hr
    rw [State.getV_advance, State.getV_setResultAndFlag, if_neg hVF, if_neg hx]

theorem carryFlag_toNat (a b : Byte) : (carryFlag a b).toNat = if 255 < a.toNat + b.toNat then 1 else 0 := by
  simp [carryFlag, flagByte_toNat]

theorem notBorrowFlag_toNat (a b : Byte) : (notBorrowFlag a b).toNat = if b.toNat ≤ a.toNat then 1 else 0 := by
  simp [notBorrowFlag, flagByte_toNat]

theorem sumByte_toNat (a b : Byte) : (sumByte a b).toNat = (a.toNat + b.toNat) % 256 := by
  rw [sumByte_eq, BitVec.toNat_add]

theorem differenceByte_toNat (a b : Byte) :
    ((differenceByte a b).toNat : Int) = ((a.toNat : Int) - b.toNat) % 256 := by
  rw [differenceByte, BitVec.toNat_ofInt]
  exact Int.toNat_of_nonneg (Int.emod_nonneg _ (by decide))

/-- The bit a right shift drops is the remainder of the halving. -/
theorem droppedLowFlag_toNat (a : Byte) : (droppedLowFlag a).toNat = a.toNat % 2 := by
  rw [droppedLowFlag, flagByte_toNat, BitVec.getLsbD, Nat.testBit_zero]
  simp only [decide_eq_true_eq]
  split <;> omega

/-- The bit a left shift drops is the carry of the doubling. -/
theorem droppedHighFlag_toNat (a : Byte) : (droppedHighFlag a).toNat = a.toNat / 128 := by
  have := a.isLt
  rw [droppedHighFlag, flagByte_toNat, BitVec.getLsbD, Nat.testBit_eq_decide_div_mod_eq]
  simp only [decide_eq_true_eq]
  split <;> omega

/-- Settles O41, from the carry and the sum. -/
theorem addRegGivesSumAndCarry : Obligations.AddRegGivesSumAndCarry := by
  intro x y s
  obtain ⟨hx, hVF, hregs, hkeeps⟩ := s.advance_setResultAndFlag_spec x (sumByte (s.getV x) (s.getV y))
    (carryFlag (s.getV x) (s.getV y))
  exact ⟨_, rfl, fun h => by rw [hx h, sumByte_toNat], by rw [hVF, carryFlag_toNat], rfl, hregs, hkeeps⟩

/-- What an instruction that ends in a difference and its NOT borrow flag leaves (R148, R151). -/
theorem exec_difference {i : Instr} {s : State} {x : RegIdx} {a b : Byte}
    (h : exec i s = .next (s.setResultAndFlag x (differenceByte a b) (notBorrowFlag a b)).advance) :
    ∃ t, exec i s = .next t ∧ (x ≠ VF → ((t.getV x).toNat : Int) = ((a.toNat : Int) - b.toNat) % 256) ∧
      (t.getV VF).toNat = (if b.toNat ≤ a.toNat then 1 else 0) ∧
      t.pc = s.pc + 2#16 ∧ KeepsRegsBut (fun r => r = x ∨ r = VF) s t ∧ KeepsAllBut [.regs] s t := by
  obtain ⟨hx, hVF, hregs, hkeeps⟩ := s.advance_setResultAndFlag_spec x (differenceByte a b) (notBorrowFlag a b)
  exact ⟨_, h, fun hne => by rw [hx hne, differenceByte_toNat], by rw [hVF, notBorrowFlag_toNat], rfl, hregs,
    hkeeps⟩

/-- Settles O42: SUBN ends as SUB does, with the operands exchanged. -/
theorem subtractionsGiveDifferenceAndNotBorrow : Obligations.SubtractionsGiveDifferenceAndNotBorrow :=
  fun _ _ _ => ⟨exec_difference rfl, exec_difference rfl⟩

/-- The shifted value is the operand `SHIFT_SOURCE` names (D4). -/
theorem State.eq_shiftOperand {s : State} {x y : RegIdx} {a : Byte}
    (hvx : s.config.shiftSource = .vx → a = s.getV x) (hvy : s.config.shiftSource = .vy → a = s.getV y) :
    a = s.shiftOperand x y := by
  rw [State.shiftOperand]
  split
  · exact hvx ‹_›
  · exact hvy ‹_›

/-- Settles O43, for the operand `SHIFT_SOURCE` names. -/
theorem shiftsMoveOneBitAndKeepTheDroppedBit : Obligations.ShiftsMoveOneBitAndKeepTheDroppedBit := by
  intro x y s a hvx hvy
  obtain rfl := State.eq_shiftOperand hvx hvy
  constructor
  · obtain ⟨hx, hVF, hregs, hkeeps⟩ := s.advance_setResultAndFlag_spec x (s.shiftOperand x y >>> 1)
      (droppedLowFlag (s.shiftOperand x y))
    exact ⟨_, rfl, fun h => by rw [hx h, BitVec.toNat_ushiftRight, Nat.shiftRight_one],
      by rw [hVF, droppedLowFlag_toNat], rfl, hregs, hkeeps⟩
  · obtain ⟨hx, hVF, hregs, hkeeps⟩ := s.advance_setResultAndFlag_spec x (s.shiftOperand x y <<< 1)
      (droppedHighFlag (s.shiftOperand x y))
    exact ⟨_, rfl, fun h => by rw [hx h, BitVec.toNat_shiftLeft, Nat.shiftLeft_eq, Nat.mul_comm],
      by rw [hVF, droppedHighFlag_toNat], rfl, hregs, hkeeps⟩

end Sys2Proof.Machine
end

section
/-! Family 45_keypad_timer.md: the keypad skips and the key poll, and the timer transfers (R200 to R206). -/

namespace Sys2Proof.Machine

/-! ## Keypad -/

theorem lowNibble_toNat (b : Byte) : (lowNibble b).toNat = b.toNat % 16 := by
  simp [lowNibble, BitVec.extractLsb'_toNat]

/-- The selected key is the one the low nibble of `Vx` numbers (R200). -/
theorem State.selectedKeyPressed_eq {s : State} {x : RegIdx} {k : Nibble}
    (hk : k.toNat = (s.getV x).toNat % 16) : s.selectedKeyPressed x = s.keyPressed k := by
  have : lowNibble (s.getV x) = k := BitVec.eq_of_toNat_eq ((lowNibble_toNat _).trans hk.symm)
  rw [State.selectedKeyPressed, this]

/-- Settles O57, from the `PC` and the frame of a skip. -/
theorem keySkips : Obligations.KeySkips := by
  refine fun x s k hk => ⟨⟨_, rfl, ?_, exec_keeps (i := .skp x) rfl (s.skipIf_status _)⟩,
    ⟨_, rfl, ?_, exec_keeps (i := .sknp x) rfl (s.skipIf_status _)⟩⟩
  · rw [State.skipIf_pc, State.selectedKeyPressed_eq hk]
  · rw [State.skipIf_pc, State.selectedKeyPressed_eq hk]
    cases s.keyPressed k <;> rfl

/-- Position `j` of the keypad's list is key `j` (R35). -/
theorem State.keys_toList_getElem (s : State) (j : Nat) (h : j < s.keys.toList.length) :
    s.keys.toList[j] = s.keyPressed (BitVec.ofNat 4 j) := by
  have hj : j % 16 = j := Nat.mod_eq_of_lt (by simpa using h)
  simp [State.keyPressed, hj]

theorem State.leastPressedKey_eq_some {s : State} {k : Nibble} (hk : s.keyPressed k = true)
    (hleast : ∀ j : Nibble, j.toNat < k.toNat → s.keyPressed j = false) :
    s.leastPressedKey = some k.toNat := by
  have hlen : k.toNat < s.keys.toList.length := by simpa using k.isLt
  rw [State.leastPressedKey, List.findIdx?_eq_some_iff_getElem]
  refine ⟨hlen, by rw [s.keys_toList_getElem, BitVec.ofNat_toNat, BitVec.setWidth_eq, hk], fun j hj => ?_⟩
  have := hleast (BitVec.ofNat 4 j) (by rw [BitVec.toNat_ofNat]; omega)
  rw [s.keys_toList_getElem, this]
  decide

theorem State.leastPressedKey_eq_none {s : State} (h : ∀ k : Nibble, s.keyPressed k = false) :
    s.leastPressedKey = none := by
  rw [State.leastPressedKey, List.findIdx?_eq_none_iff]
  intro pressed hmem
  obtain ⟨j, hj, rfl⟩ := List.getElem_of_mem hmem
  rw [s.keys_toList_getElem, h]

/-- Settles O58, from the least pressed key, if any is pressed. -/
theorem keyWaitStoresTheLeastKeyOrPolls : Obligations.KeyWaitStoresTheLeastKeyOrPolls := by
  refine fun x s => ⟨fun k hk hleast => ?_, fun h => exec_ldVxK_of_none x (State.leastPressedKey_eq_none h)⟩
  refine ⟨_, exec_ldVxK_of_key x (State.leastPressedKey_eq_some hk hleast), ?_, rfl, s.advance_setV_frame x _⟩
  have := k.isLt
  rw [State.getV_advance, State.getV_setV_same, BitVec.toNat_ofNat]
  omega

/-! ## Timers -/

/-- Settles O59, from the frame of each transfer. -/
theorem timerTransfers : Obligations.TimerTransfers := fun x s =>
  ⟨⟨_, rfl, s.getV_setV_same x s.dt, rfl, s.advance_setV_frame x s.dt⟩,
    ⟨_, rfl, rfl, rfl, exec_keeps (i := .ldDtVx x) rfl rfl⟩,
    ⟨_, rfl, rfl, rfl, exec_keeps (i := .ldStVx x) rfl rfl⟩⟩

/-- Ticks in a row take as much from the delay timer, floored at 0 (R230). -/
theorem State.dt_iterate_tickTimers (s : State) (ticks : Nat) :
    (State.tickTimers^[ticks] s).dt.toNat = s.dt.toNat - ticks := by
  induction ticks with
  | zero => rfl
  | succ k ih => rw [Function.iterate_succ_apply', State.tickTimers_dt, countDown_toNat, ih, Nat.sub_sub]

/-- Settles O60: the ticks count down the value set, and the transfer reads what is left. -/
theorem delayReadsBackLessTheTicks : Obligations.DelayReadsBackLessTheTicks := by
  intro x y ticks s
  refine ⟨_, _, rfl, rfl, ?_⟩
  rw [State.getV_advance, State.getV_setV_same, State.dt_iterate_tickTimers]
  rfl

end Sys2Proof.Machine
end

section
/-! Family 43_index_memory.md: sums and glyphs in `I`, and the transfers between registers and memory (R172 to R176). -/

namespace Sys2Proof.Machine

/-! ## The index register -/

/-- Settles O46, from the reduced sum and the frame of an index write. -/
theorem addIWrapsModulo4096 : Obligations.AddIWrapsModulo4096 := fun x s =>
  ⟨_, rfl, s.indexPlus_toNat (s.getV x).toNat, rfl, s.advance_setI_frame _⟩

/-- Settles O47: the glyph of a nibble ends at most at the 80th font byte. -/
theorem ldFPointsAtTheGlyph : Obligations.LdFPointsAtTheGlyph := by
  intro x s
  refine ⟨_, rfl, glyphAddress_toNat (s.getV x), ?_, rfl, s.advance_setI_frame _⟩
  have hi : ((s.setI (glyphAddress (s.getV x))).advance).i.toNat = 5 * ((s.getV x).toNat % 16) :=
    glyphAddress_toNat (s.getV x)
  omega

/-- Where `I` stands after a block transfer (D8). -/
theorem State.indexAfterBlock_toNat (s : State) (x : RegIdx) : (s.indexAfterBlock x).toNat =
    if s.config.lsAdvancesI then (s.i.toNat + x.toNat + 1) % 4096 else s.i.toNat := by
  rw [State.indexAfterBlock]
  split
  · rw [State.indexPlus_toNat, Nat.add_assoc]
  · rfl

/-! ## Stores and loads inside memory -/

theorem exec_ldBVx_inside (x : RegIdx) {s : State} (hlo : 0x200 ≤ s.i.toNat) (hhi : s.i.toNat + 2 ≤ 0xFFF) :
    exec (.ldBVx x) s = .next (s.writeBytes s.i.toNat (decimalDigits (s.getV x))).advance := by
  rw [exec_ldBVx, if_pos ⟨hlo, by omega⟩]

theorem exec_ldMemVx_inside {x : RegIdx} {s : State} (hlo : 0x200 ≤ s.i.toNat)
    (hhi : s.i.toNat + x.toNat ≤ 0xFFF) : exec (.ldMemVx x) s =
      .next ((s.writeBytes s.i.toNat (s.regBlock (x.toNat + 1))).setI (s.indexAfterBlock x)).advance := by
  rw [exec_ldMemVx, if_pos ⟨hlo, by omega⟩]

theorem exec_ldVxMem_inside {x : RegIdx} {s : State} (h : s.i.toNat + x.toNat ≤ 0xFFF) : exec (.ldVxMem x) s =
    .next ((s.setBlock (s.readBytes s.i.toNat (x.toNat + 1))).setI (s.indexAfterBlock x)).advance := by
  rw [exec_ldVxMem, if_pos (by omega)]

/-- Settles O48: each stored digit is read back, and bytes outside the three are not stored. -/
theorem ldBStoresTheDecimalDigits : Obligations.LdBStoresTheDecimalDigits := by
  intro x s hlo hhi
  have hv := (s.getV x).isLt
  have hexec := exec_ldBVx_inside x hlo hhi
  have hdigit (j : Nat) (h : j < 3) := s.readByte_writeBytes_inside s.i.toNat (decimalDigits (s.getV x)) j h
  refine ⟨_, hexec, ?_, ?_, ?_, fun b hb => exec_keeps_byte hexec (.inr hb), rfl, exec_keeps hexec rfl⟩
  · exact (congrArg BitVec.toNat (hdigit 0 (by decide))).trans (by simp [decimalDigits]; omega)
  · exact (congrArg BitVec.toNat (hdigit 1 (by decide))).trans (by simp [decimalDigits]; omega)
  · exact (congrArg BitVec.toNat (hdigit 2 (by decide))).trans (by simp [decimalDigits]; omega)

/-- Register `r` of a stored block is read back at `I + r` (R175). -/
theorem State.readByte_store_regBlock (s : State) {x r : RegIdx} (h : r.toNat ≤ x.toNat) :
    (s.writeBytes s.i.toNat (s.regBlock (x.toNat + 1))).readByte (s.effAddr r.toNat) = s.getV r := by
  have hlt : r.toNat < (s.regBlock (x.toNat + 1)).length := by rw [State.length_regBlock]; omega
  rw [State.effAddr, State.readByte_writeBytes_inside _ _ _ _ hlt, State.getElem_regBlock_reg]

/-- Settles O49: each register of the block is read back, and bytes outside the block are not stored. -/
theorem storeBlockWritesTheRegisters : Obligations.StoreBlockWritesTheRegisters := by
  intro x s hlo hhi
  have hexec := exec_ldMemVx_inside hlo hhi
  exact ⟨_, hexec, fun r hr => s.readByte_store_regBlock hr, fun b hb => exec_keeps_byte hexec (.inr hb),
    s.indexAfterBlock_toNat x, rfl, keepsAllBut_of_fields (by simp)⟩

/-- Settles O50: each register of the block holds the byte loaded for it. -/
theorem loadBlockReadsTheRegisters : Obligations.LoadBlockReadsTheRegisters := by
  intro x s h
  have hexec := exec_ldVxMem_inside h
  refine ⟨_, hexec, fun r hr => ?_, fun r hr => exec_keeps_reg hexec ?_, s.indexAfterBlock_toNat x, rfl,
    keepsAllBut_of_fields (by simp)⟩
  · have hlt : r.toNat < (s.readBytes s.i.toNat (x.toNat + 1)).length := by rw [State.length_readBytes]; omega
    rw [State.getV_advance, State.getV_setI, State.getV_setBlock, dif_pos hlt, State.getElem_readBytes,
      State.effAddr]
  · exact decide_eq_false hr

/-! ## Accesses that fail -/

/-- Settles O51, from the branch of each instruction whose check fails. -/
theorem failingAccessesHalt : Obligations.FailingAccessesHalt := by
  refine fun x y n s => ⟨fun h => ?_, fun h => ?_, fun h => ?_, fun h => ?_⟩
  · exact (exec_ldBVx x s).trans (if_neg (by omega))
  · exact (exec_ldMemVx x s).trans (if_neg (by omega))
  · exact (exec_ldVxMem x s).trans (if_neg (by omega))
  · exact (exec_drw x y n s).trans (if_neg (by omega))

/-! ## Stored code -/

/-- Settles O52: the next instruction's address passes the fetch checks, and its two bytes are `V0` and `V1`. -/
theorem storedCodeIsFetchedAsWritten : Obligations.StoredCodeIsFetchedAsWritten := by
  intro x s t hx hi hlo hhi heven h
  obtain ⟨u, hexec, hbytes, _, _, hnext, _⟩ := storeBlockWritesTheRegisters x s hlo hhi
  cases hexec.symm.trans h
  have hpc : t.pc = s.i := hnext.trans hi.symm
  have hhead : t.readByte s.i.toNat = s.getV 0x0#4 := hbytes 0x0#4 (Nat.zero_le _)
  have htail : t.readByte (s.i.toNat + 1) = s.getV 0x1#4 := hbytes 0x1#4 hx
  have hfetch : t.fetch = .ok (wordOfBytes (t.readByte t.pc.toNat) (t.readByte (t.pc.toNat + 1))) :=
    State.fetch_of_checks (t.policyFaults_eq_false.2 fun _ => by rw [hpc]; exact ⟨heven, hlo⟩)
      (by rw [hpc]; omega)
  rw [hfetch, hpc, hhead, htail]

end Sys2Proof.Machine
end

section
/-! Family 44_display.md: what DRW toggles and reports, and two draws in a row (R191 to R194). -/

namespace Sys2Proof.Machine

/-! ## The pixels a draw touches -/

/-- A bit of a sprite row, counted from the left, as a binary digit of the byte (R193). -/
theorem spriteBit_iff (row : Byte) (b : Nat) : spriteBit row b = true ↔ row.toNat / 2 ^ (7 - b) % 2 = 1 := by
  rw [spriteBit, BitVec.getLsbD, Nat.testBit_eq_decide_div_mod_eq, decide_eq_true_iff]

/-- A byte with no bit set is zero. -/
theorem exists_spriteBit_iff (row : Byte) : (∃ b, b < 8 ∧ spriteBit row b = true) ↔ row ≠ 0x00#8 := by
  constructor
  · rintro ⟨b, _, hb⟩ rfl
    simp [spriteBit] at hb
  · intro hrow
    by_contra hnone
    refine hrow (BitVec.eq_of_getLsbD_eq fun k hk => ?_)
    have hbit : ¬ spriteBit row (7 - k) = true := fun h => hnone ⟨7 - k, by omega, h⟩
    rw [spriteBit, show 7 - (7 - k) = k by omega] at hbit
    simpa using hbit

/-- The pixels the sprite at `I` covers are the ones a draw touches. -/
theorem spriteCovers_iff (s : State) (x y : RegIdx) (n : Nibble) (px py : Nat) : SpriteCovers s x y n px py ↔
    (px, py) ∈ touchedRows (s.getV x).toNat (s.getV y).toNat 0 (s.readBytes s.i.toNat n.toNat) := by
  simp only [mem_touchedRows, State.length_readBytes, State.getElem_readBytes, spriteBit_iff, wrapX, wrapY,
    Nat.zero_add, Prod.mk.injEq]
  constructor
  · rintro ⟨j, b, hj, hb, hbit, rfl, rfl⟩; exact ⟨j, b, hj, hb, hbit, rfl, rfl⟩
  · rintro ⟨j, b, hj, hb, hbit, rfl, rfl⟩; exact ⟨j, b, hj, hb, hbit, rfl, rfl⟩

/-- Both coordinates of a covered pixel are wrapped, so that it lies in the grid (R191). -/
theorem spriteCovers_in_grid {s : State} {x y : RegIdx} {n : Nibble} {px py : Nat}
    (h : SpriteCovers s x y n px py) : px < 64 ∧ py < 32 := by
  obtain ⟨_, _, _, _, _, rfl, rfl⟩ := h
  exact ⟨Nat.mod_lt _ (by decide), Nat.mod_lt _ (by decide)⟩

/-- A sprite covers some pixel of the grid exactly when one of its rows has a 1 bit. -/
theorem exists_spriteCovers_iff (s : State) (x y : RegIdx) (n : Nibble) :
    (∃ px py, px < 64 ∧ py < 32 ∧ SpriteCovers s x y n px py) ↔
      ∃ j, j < n.toNat ∧ s.readByte (s.effAddr j) ≠ 0x00#8 := by
  constructor
  · rintro ⟨_, _, _, _, j, b, hj, hb, hbit, _, _⟩
    exact ⟨j, hj, (exists_spriteBit_iff _).1 ⟨b, hb, (spriteBit_iff _ b).2 hbit⟩⟩
  · rintro ⟨j, hj, hrow⟩
    obtain ⟨b, hb, hbit⟩ := (exists_spriteBit_iff _).2 hrow
    have hcover : SpriteCovers s x y n _ _ := ⟨j, b, hj, hb, (spriteBit_iff _ b).1 hbit, rfl, rfl⟩
    obtain ⟨hx, hy⟩ := spriteCovers_in_grid hcover
    exact ⟨_, _, hx, hy, hcover⟩

/-! ## One draw -/

/-- The sprite covers a pixel of the grid that has the given value. -/
def CoversPixelThatIs (v : Bool) (s : State) (x y : RegIdx) (n : Nibble) : Prop :=
  ∃ px py, px < 64 ∧ py < 32 ∧ SpriteCovers s x y n px py ∧ s.fb.pixel px py = v

/-- A sprite has at most 15 rows, so that no pixel is touched twice. -/
theorem State.length_spriteRows (s : State) (n : Nibble) : (s.readBytes s.i.toNat n.toNat).length ≤ 32 := by
  have := n.isLt
  rw [State.length_readBytes]
  omega

theorem State.drawn_pixel_of_covered {s : State} {x y : RegIdx} {n : Nibble} {px py : Nat} (hx : px < 64)
    (hy : py < 32) (h : SpriteCovers s x y n px py) : (s.drawn x y n).fb.pixel px py = !s.fb.pixel px py := by
  have hdraw := (drawSprite_spec (s.getV x) (s.getV y) _ s.fb (s.length_spriteRows n)).1 px py hx hy
  rw [decide_eq_true ((spriteCovers_iff s x y n px py).1 h), Bool.bne_true] at hdraw
  exact hdraw

theorem State.drawn_pixel_of_not_covered {s : State} {x y : RegIdx} {n : Nibble} {px py : Nat} (hx : px < 64)
    (hy : py < 32) (h : ¬ SpriteCovers s x y n px py) : (s.drawn x y n).fb.pixel px py = s.fb.pixel px py := by
  have hdraw := (drawSprite_spec (s.getV x) (s.getV y) _ s.fb (s.length_spriteRows n)).1 px py hx hy
  rw [decide_eq_false (mt (spriteCovers_iff s x y n px py).2 h), Bool.bne_false] at hdraw
  exact hdraw

/-- A draw sees a collision exactly when the sprite covers a pixel that is on. -/
theorem drawSprite_collision_iff (s : State) (x y : RegIdx) (n : Nibble) :
    (drawSprite (s.getV x) (s.getV y) (s.readBytes s.i.toNat n.toNat) s.fb).2 = true ↔
      CoversPixelThatIs true s x y n := by
  rw [(drawSprite_spec (s.getV x) (s.getV y) _ s.fb (s.length_spriteRows n)).2]
  constructor
  · rintro ⟨⟨px, py⟩, hmem, hon⟩
    have hcover := (spriteCovers_iff s x y n px py).2 hmem
    obtain ⟨hx, hy⟩ := spriteCovers_in_grid hcover
    exact ⟨px, py, hx, hy, hcover, hon⟩
  · rintro ⟨px, py, _, _, hcover, hon⟩
    exact ⟨(px, py), (spriteCovers_iff s x y n px py).1 hcover, hon⟩

theorem State.drawn_flag (s : State) (x y : RegIdx) (n : Nibble) : (s.drawn x y n).getV VF =
    flagByte (drawSprite (s.getV x) (s.getV y) (s.readBytes s.i.toNat n.toNat) s.fb).2 :=
  State.getV_setV_same _ VF _

theorem State.drawn_flag_eq_one_iff (s : State) (x y : RegIdx) (n : Nibble) :
    (s.drawn x y n).getV VF = 0x01#8 ↔ CoversPixelThatIs true s x y n := by
  rw [s.drawn_flag, ← drawSprite_collision_iff]
  cases (drawSprite (s.getV x) (s.getV y) (s.readBytes s.i.toNat n.toNat) s.fb).2 <;> decide

theorem State.drawn_flag_eq_zero_iff (s : State) (x y : RegIdx) (n : Nibble) :
    (s.drawn x y n).getV VF = 0x00#8 ↔ ¬ CoversPixelThatIs true s x y n := by
  rw [s.drawn_flag, ← drawSprite_collision_iff]
  cases (drawSprite (s.getV x) (s.getV y) (s.readBytes s.i.toNat n.toNat) s.fb).2 <;> decide

theorem exec_drw_inside {x y : RegIdx} {n : Nibble} {s : State}
    (h : n.toNat = 0 ∨ s.i.toNat + n.toNat - 1 ≤ 0xFFF) : exec (.drw x y n) s = .next (s.drawn x y n) := by
  rw [exec_drw, if_pos (by omega)]

/-- Settles O54, from the pixels and the flag of a draw and the frame of DRW. -/
theorem drwTogglesCoveredPixelsAndReportsCollision :
    Obligations.DrwTogglesCoveredPixelsAndReportsCollision := fun x y n s h =>
  ⟨_, exec_drw_inside h, fun _ _ => State.drawn_pixel_of_covered, fun _ _ => State.drawn_pixel_of_not_covered,
    (s.drawn_flag_eq_one_iff x y n).2, (s.drawn_flag_eq_zero_iff x y n).2, rfl,
    fun _ hr => exec_keeps_reg (exec_drw_inside h) (beq_eq_false_iff_ne.2 hr),
    exec_keeps (exec_drw_inside h) rfl⟩

/-! ## Two draws -/

section TwoDraws

variable {s : State} {x y : RegIdx} {n : Nibble} (hx : (s.drawn x y n).getV x = s.getV x)
  (hy : (s.drawn x y n).getV y = s.getV y)
include hx hy

/-- A draw that kept its coordinates moved neither the sprite nor `I`. -/
theorem spriteCovers_drawn_iff (px py : Nat) :
    SpriteCovers (s.drawn x y n) x y n px py ↔ SpriteCovers s x y n px py := by
  unfold SpriteCovers
  rw [hx, hy]
  rfl

/-- Every covered pixel toggles twice. -/
theorem State.drawn_drawn_fb : ((s.drawn x y n).drawn x y n).fb = s.fb := by
  refine Framebuffer.ext_pixel _ _ fun px py hpx hpy => ?_
  have hsame := spriteCovers_drawn_iff hx hy px py
  by_cases hcover : SpriteCovers s x y n px py
  · rw [State.drawn_pixel_of_covered hpx hpy (hsame.2 hcover), State.drawn_pixel_of_covered hpx hpy hcover,
      Bool.not_not]
  · rw [State.drawn_pixel_of_not_covered hpx hpy (mt hsame.1 hcover),
      State.drawn_pixel_of_not_covered hpx hpy hcover]

/-- The covered pixels that are on before the second draw are those that were off before the first. -/
theorem coversPixelThatIs_on_drawn_iff :
    CoversPixelThatIs true (s.drawn x y n) x y n ↔ CoversPixelThatIs false s x y n := by
  refine exists₂_congr fun px py => and_congr_right fun hpx => and_congr_right fun hpy => ?_
  rw [spriteCovers_drawn_iff hx hy]
  refine and_congr_right fun hcover => ?_
  rw [State.drawn_pixel_of_covered hpx hpy hcover, Bool.not_eq_true']

/-- After a first draw without collision every covered pixel was off. -/
theorem drawn_drawn_flag_after_no_collision (hflag : (s.drawn x y n).getV VF = 0x00#8) :
    ((s.drawn x y n).drawn x y n).getV VF = 0x01#8 ↔
      ∃ j, j < n.toNat ∧ s.readByte (s.effAddr j) ≠ 0x00#8 := by
  rw [State.drawn_flag_eq_one_iff, coversPixelThatIs_on_drawn_iff hx hy, ← exists_spriteCovers_iff s x y]
  have hoff := (s.drawn_flag_eq_zero_iff x y n).1 hflag
  constructor
  · rintro ⟨px, py, hpx, hpy, hcover, _⟩; exact ⟨px, py, hpx, hpy, hcover⟩
  · rintro ⟨px, py, hpx, hpy, hcover⟩
    exact ⟨px, py, hpx, hpy, hcover, Bool.eq_false_iff.2 fun hon => hoff ⟨px, py, hpx, hpy, hcover, hon⟩⟩

end TwoDraws

/-- Settles O55: the second draw toggles the pixels of the first, and collides where the first turned one on. -/
theorem drawTwiceRestoresTheFramebuffer : Obligations.DrawTwiceRestoresTheFramebuffer := by
  intro x y n s h
  refine ⟨_, exec_drw_inside h, fun hx hy => ⟨_, exec_drw_inside h, State.drawn_drawn_fb hx hy, ?_, ?_,
    drawn_drawn_flag_after_no_collision hx hy⟩⟩
  · exact fun hoff => (State.drawn_flag_eq_one_iff _ x y n).2 ((coversPixelThatIs_on_drawn_iff hx hy).2 hoff)
  · exact fun hoff => (State.drawn_flag_eq_zero_iff _ x y n).2 (mt (coversPixelThatIs_on_drawn_iff hx hy).1 hoff)

/-- A machine after reset but for the framebuffer, whose first four pixels, the first row of glyph 0, are on. -/
def firstGlyphRowOn : State := { State.reset with fb := Framebuffer.clear.set 0 0xF#64 }

/-- Refutes O56: drawing the first row of glyph 0 where exactly its pixels are on turns them all off, so that the
second draw finds none on (log 15). -/
theorem not_secondDrawAlwaysCollides : ¬ Obligations.SecondDrawAlwaysCollides := by
  intro h
  have hcollides := h 0x0#4 0x1#4 0x1#4 firstGlyphRowOn _ _ (by decide) (exec_drw_inside (by decide)) (by decide)
    (by decide) (exec_drw_inside (by decide)) ⟨0, by decide, by decide⟩
  exact absurd hcollides (by decide)

end Sys2Proof.Machine
end
